-- ==== Sys2Proof/Word.lean ====
section
/-! DEFINITION. The word types: a byte (00_scope R10) and a frame as one 128-bit value (30_encoding R93). -/

namespace Sys2Proof

/-- A byte is 8 bits (R10). -/
abbrev Byte := BitVec 8

/-- A frame as the value `V` of R93: byte i of the frame is `V[8i+7:8i]`, so byte 0, the magic, is `V[7:0]`. -/
abbrev Frame := BitVec 128

end Sys2Proof
end

