-- ==== Sys2Proof/Config.lean ====
section
/-! DEFINITION. The implementation parameters of 00_scope R7, and the one free value.
Every parameter of R7's table is a field of `Config`; the values this block is built with are `Config.std`
(Sys2Proof/Decode.lean). A command's computation takes the parameters as an argument. -/

namespace Sys2Proof

/-- The six frame classes (address width x data width), class index k = 0..5 in this order (R14, R92). -/
inductive FrameClass where
  | c8x8 | c8x16 | c8x32 | c8x64 | c16x64 | c32x32
  deriving DecidableEq, Repr

/-- The classes in the order of their indices (R14). -/
def allClasses : List FrameClass := [.c8x8, .c8x16, .c8x32, .c8x64, .c16x64, .c32x32]

/-- `FIELD_ENDIAN`: byte order of a multi-byte address or data field in a frame (R64). -/
inductive Endian where
  | little | big
  deriving DecidableEq, Repr

/-- The parameters of R7 that a model "takes as a configuration field". -/
structure Config where
  /-- `FRAME_LEN` -/
  frameLen : Nat
  /-- `N_CLASS`: the block has the first N_CLASS classes -/
  nClass : Nat
  /-- `MAGIC[k]` -/
  magic : FrameClass → Byte
  /-- `AW[k]` -/
  aw : FrameClass → Nat
  /-- `DW[k]` -/
  dw : FrameClass → Nat
  /-- `FIELD_ENDIAN` -/
  fieldEndian : Endian
  /-- `CHECK_TARGET`: whether PARSE compares the frame's target id with `F_TID` -/
  checkTarget : Bool
  /-- `W_RATE`: the width of `R_INT`, `R_NUM`, `R_DEN`; intermediate values of Unit R must be below 2^W_RATE (R171) -/
  wRate : Nat
  /-- `F_VCO` -/
  fVco : Nat
  /-- `F_RMIN` -/
  fRmin : Nat
  /-- `R_MAX` -/
  rMax : Nat
  /-- `A_MIN` -/
  aMin : Nat
  /-- `A_MAX` -/
  aMax : Nat
  /-- `SHRINK_LIMIT` -/
  shrinkLimit : Nat
  /-- `P1_BITS`, `P2_BITS`, `P3_BITS` -/
  p1Bits : Nat
  p2Bits : Nat
  p3Bits : Nat
  /-- `MS_BASE0` -/
  msBase0 : Nat
  /-- `MS_STRIDE` -/
  msStride : Nat
  /-- `N_MS` -/
  nMs : Nat
  /-- `RREG_FIXED` -/
  rregFixed : Byte

/-- How many bytes a frame value has (R10, R90): the type `Frame` and the buffers `TXF` and `RXF` (R61) are this long. -/
abbrev frameLen : Nat := 16

/-- How many bits a rate register has room for; `W_RATE` of this block (R7). -/
abbrev rateBits : Nat := 64

/-- Address bytes and data bytes of class k (R91). -/
def Config.na (cfg : Config) (k : FrameClass) : Nat := cfg.aw k / 8
def Config.nd (cfg : Config) (k : FrameClass) : Nat := cfg.dw k / 8

/-- The classes the block has (R7, R14). -/
def Config.classes (cfg : Config) : List FrameClass := allClasses.take cfg.nClass

/-- FREE VALUE (10_state R37, 70_reset R280; log 3): what an unspecified register reads as, one value for every draw.
The argument counts the draws. It has no body, so no proof can see a value. -/
opaque Config.unspecified : Nat → BitVec 64

/-- The document's "Representative target IDs" (20_memory R71): names for a reader.
The block checks no target id against this list, which is not complete (U12). -/
def representativeTargets : List (FrameClass × Byte × String) :=
  [(.c8x8, 0x00, "transceiver registers"), (.c8x8, 0x01, "clock-chip registers"), (.c8x8, 0x02, "VCTCXO tamer"),
   (.c8x16, 0x00, "VCTCXO DAC"), (.c8x16, 0x01, "IQ correction"), (.c8x16, 0x02, "AGC DC correction"),
   (.c8x16, 0x03, "auxiliary DAC"), (.c8x16, 0x04, "power monitor"),
   (.c8x32, 0x00, "version"), (.c8x32, 0x01, "control/status"), (.c8x32, 0x02, "auxiliary synth")]

end Sys2Proof
end

