-- ==== Sys2Proof/Syntax.lean ====
section
/-! DEFINITION. The instructions: one constructor per row of spec/opcode_table.json.
The twenty commands carry no operand field: every operand is in a fixed register or buffer (30_encoding R100, R102).
The six frame rows carry every field of the sixteen bytes but the magic, which the constructor stands for (R91, R94 to R99). -/

namespace Sys2Proof

/-- One constructor per row of the opcode table (R100, R116). -/
inductive Instr where
  /-- `CLRERR` (44_system R226) -/
  | clrerr
  /-- `BUILD.8x8` (40_frame_build R132) -/
  | build8x8
  /-- `BUILD.8x16` (40_frame_build R133) -/
  | build8x16
  /-- `BUILD.8x32` (40_frame_build R134) -/
  | build8x32
  /-- `BUILD.8x64` (40_frame_build R135) -/
  | build8x64
  /-- `BUILD.16x64` (40_frame_build R136) -/
  | build16x64
  /-- `BUILD.32x32` (40_frame_build R137) -/
  | build32x32
  /-- `PARSE.8x8` (41_frame_parse R153) -/
  | parse8x8
  /-- `PARSE.8x16` (41_frame_parse R154) -/
  | parse8x16
  /-- `PARSE.8x32` (41_frame_parse R155) -/
  | parse8x32
  /-- `PARSE.8x64` (41_frame_parse R156) -/
  | parse8x64
  /-- `PARSE.16x64` (41_frame_parse R157) -/
  | parse16x64
  /-- `PARSE.32x32` (41_frame_parse R158) -/
  | parse32x32
  /-- `REDUCE` (42_rational R174) -/
  | reduce
  /-- `DOUBLE` (42_rational R175) -/
  | double
  /-- `CALCMS` (43_multisynth R186) -/
  | calcms
  /-- `PACK` (43_multisynth R196) -/
  | pack
  /-- `UNPACK` (43_multisynth R200) -/
  | unpack
  /-- `MSADDR` (43_multisynth R205) -/
  | msaddr
  /-- `RENC` (43_multisynth R207) -/
  | renc
  /-- `FRAME.8x8`: format F0 (30_encoding R94) -/
  | frame8x8 (target flags reserved : Byte) (addr : BitVec 8) (data : BitVec 8) (padding : BitVec 80)
  /-- `FRAME.8x16`: format F1 (30_encoding R95) -/
  | frame8x16 (target flags reserved : Byte) (addr : BitVec 8) (data : BitVec 16) (padding : BitVec 72)
  /-- `FRAME.8x32`: format F2 (30_encoding R96) -/
  | frame8x32 (target flags reserved : Byte) (addr : BitVec 8) (data : BitVec 32) (padding : BitVec 56)
  /-- `FRAME.8x64`: format F3 (30_encoding R97) -/
  | frame8x64 (target flags reserved : Byte) (addr : BitVec 8) (data : BitVec 64) (padding : BitVec 24)
  /-- `FRAME.16x64`: format F4 (30_encoding R98) -/
  | frame16x64 (target flags reserved : Byte) (addr : BitVec 16) (data : BitVec 64) (padding : BitVec 16)
  /-- `FRAME.32x32`: format F5 (30_encoding R99) -/
  | frame32x32 (target flags reserved : Byte) (addr : BitVec 32) (data : BitVec 32) (padding : BitVec 32)
  deriving DecidableEq, Repr

end Sys2Proof
end

