-- ==== Sys2Proof/WellFormed.lean ====
section
/-! DEFINITION. Well-formedness of an instruction.
A command has no field that could be wrong. A frame is well formed when its reserved byte and its padding are zero:
`wf_mask` and `wf_match` of the table (30_encoding R116), which is what BUILD emits (R104). The block accepts the delivery
of an ill-formed frame as well (R104, R228; U2), so nothing of the machine depends on this check. -/

namespace Sys2Proof

/-- The reserved byte and the padding of a frame are zero. -/
def Instr.wf : Instr → Bool
  | .clrerr => true
  | .build8x8 => true
  | .build8x16 => true
  | .build8x32 => true
  | .build8x64 => true
  | .build16x64 => true
  | .build32x32 => true
  | .parse8x8 => true
  | .parse8x16 => true
  | .parse8x32 => true
  | .parse8x64 => true
  | .parse16x64 => true
  | .parse32x32 => true
  | .reduce => true
  | .double => true
  | .calcms => true
  | .pack => true
  | .unpack => true
  | .msaddr => true
  | .renc => true
  | .frame8x8 _ _ reserved _ _ padding => reserved == 0 && padding == 0
  | .frame8x16 _ _ reserved _ _ padding => reserved == 0 && padding == 0
  | .frame8x32 _ _ reserved _ _ padding => reserved == 0 && padding == 0
  | .frame8x64 _ _ reserved _ _ padding => reserved == 0 && padding == 0
  | .frame16x64 _ _ reserved _ _ padding => reserved == 0 && padding == 0
  | .frame32x32 _ _ reserved _ _ padding => reserved == 0 && padding == 0

end Sys2Proof
end

