-- ==== Sys2Proof/Decode.lean ====
section
/-! DEFINITION. The values of the parameters (00_scope R7), byte order (20_memory R62 to R64), and the decoder and the
encoder of command bytes and frames (30_encoding R90 to R106, R116). Each takes the parameters as its first argument.
Two ports consume encodings: the command port (a host write to `CMD`) reads `decodeCommand`, the transport port (a delivered
frame) reads `decodeFrame`. `decode` reads either from a list of bytes, by its first byte: no opcode is a magic. -/

namespace Sys2Proof

/-- `AW[k]`: address width of class k, bits (R7, R92). -/
def FrameClass.aw : FrameClass → Nat
  | .c8x8 => 8
  | .c8x16 => 8
  | .c8x32 => 8
  | .c8x64 => 8
  | .c16x64 => 16
  | .c32x32 => 32

/-- `DW[k]`: data width of class k, bits (R7, R92). -/
def FrameClass.dw : FrameClass → Nat
  | .c8x8 => 8
  | .c8x16 => 16
  | .c8x32 => 32
  | .c8x64 => 64
  | .c16x64 => 64
  | .c32x32 => 32

/-- `na`: address bytes of class k (R91). -/
def FrameClass.na (k : FrameClass) : Nat := k.aw / 8

/-- `nd`: data bytes of class k (R91). -/
def FrameClass.nd (k : FrameClass) : Nat := k.dw / 8

/-- `MAGIC[k]` (R92): the magics are not consecutive. -/
def magicOf : FrameClass → Byte
  | .c8x8 => 0x41
  | .c8x16 => 0x42
  | .c8x32 => 0x43
  | .c8x64 => 0x44
  | .c16x64 => 0x45
  | .c32x32 => 0x4B

/-- The parameters this block is built with: every value is the one of R7's table.
`FIELD_ENDIAN`, `F_VCO`, `W_RATE`, `P1_BITS` to `P3_BITS`, `N_MS`, `CHECK_TARGET` are the spec's own decisions (D6, D22, D20, D26,
D29, D10; log 8, 9, 10, 12). -/
def Config.std : Config where
  frameLen := Sys2Proof.frameLen
  nClass := 6
  magic := magicOf
  aw := FrameClass.aw
  dw := FrameClass.dw
  fieldEndian := .little
  checkTarget := true
  wRate := rateBits
  fVco := 2534400000
  fRmin := 5000000
  rMax := 32
  aMin := 8
  aMax := 567
  shrinkLimit := 2 ^ 30
  p1Bits := 18
  p2Bits := 30
  p3Bits := 30
  msBase0 := 53
  msStride := 11
  nMs := 4
  rregFixed := 0xC0

/-- The low n bytes of v, least significant first (R63: byte a+i is `v[8i+7:8i]`). -/
def leBytes : Nat → Nat → List Byte
  | 0, _ => []
  | n + 1, v => BitVec.ofNat 8 v :: leBytes n (v / 256)

/-- The value of a list of bytes, least significant first (R62). -/
def leValue : List Byte → Nat
  | [] => 0
  | b :: bs => b.toNat + 256 * leValue bs

/-- A field of n bytes in the byte order `FIELD_ENDIAN` (R64). The big-endian order is the same bytes reversed (DEDUCED; log 8). -/
def fieldBytes : Endian → Nat → Nat → List Byte
  | .little, n, v => leBytes n v
  | .big, n, v => (leBytes n v).reverse

/-- The value of a field's bytes in the byte order `FIELD_ENDIAN` (R64). -/
def fieldValue : Endian → List Byte → Nat
  | .little, bs => leValue bs
  | .big, bs => leValue bs.reverse

/-- The `FRAME_LEN` bytes of a frame, byte 0 first (R90, R93). -/
def Config.frameBytes (cfg : Config) (f : Frame) : List Byte := leBytes cfg.frameLen f.toNat

/-- The sixteen bytes of a frame of this block. -/
def frameBytes (f : Frame) : List Byte := Config.std.frameBytes f

/-- The frame whose bytes are the list, byte 0 first: `V` of R93. -/
def frameOfBytes (bs : List Byte) : Frame := BitVec.ofNat 128 (leValue bs)

/-- Why a decoder refuses. -/
inductive DecodeError where
  /-- there is no byte to decode -/
  | noByte
  /-- the byte written to `CMD` is none of the twenty opcodes (R103) -/
  | notAnOpcode (b : Byte)
  /-- byte 0 of a frame is no class's magic (R105) -/
  | notAMagic (b : Byte)
  /-- the first byte is neither an opcode nor a magic -/
  | unknownFirstByte (b : Byte)
  /-- a magic followed by fewer than fifteen bytes: every frame has sixteen (R90) -/
  | truncatedFrame (b : Byte)
  deriving DecidableEq, Repr

/-- The opcodes of BUILD.k and PARSE.k, by class index (R100, R101). -/
def buildRows : List (Byte × Instr) :=
  [(0x10, .build8x8), (0x11, .build8x16), (0x12, .build8x32), (0x13, .build8x64), (0x14, .build16x64), (0x15, .build32x32)]

def parseRows : List (Byte × Instr) :=
  [(0x20, .parse8x8), (0x21, .parse8x16), (0x22, .parse8x32), (0x23, .parse8x64), (0x24, .parse16x64), (0x25, .parse32x32)]

/-- The opcode map of R100; a class the block does not have has no BUILD and no PARSE. -/
def commandTable (cfg : Config) : List (Byte × Instr) :=
  [(0x01, .clrerr)] ++ buildRows.take cfg.nClass ++ parseRows.take cfg.nClass ++
  [(0x30, .reduce),
   (0x31, .double),
   (0x32, .calcms),
   (0x33, .pack),
   (0x34, .unpack),
   (0x35, .msaddr),
   (0x36, .renc)]

/-- The command byte (R100, R103): the opcode is the whole byte; a byte that is not listed is illegal. -/
def Config.decodeCommand (cfg : Config) (b : Byte) : Except DecodeError Instr :=
  match (commandTable cfg).find? (fun row => row.1 == b) with
  | some row => .ok row.2
  | none => .error (.notAnOpcode b)

/-- The class whose magic a byte is (R92, R105). -/
def Config.classOfMagic (cfg : Config) (b : Byte) : Option FrameClass := cfg.classes.find? (fun k => cfg.magic k == b)

/-- An address or data field as it lies in `V`, its bytes in the order `FIELD_ENDIAN` (R64): in the little-endian order the field
itself, in the big-endian order its bytes reversed (DEDUCED; log 8). -/
def Config.inOrder (cfg : Config) {n : Nat} (x : BitVec n) : BitVec n :=
  match cfg.fieldEndian with
  | .little => x
  | .big => BitVec.ofNat n (leValue (leBytes (n / 8) x.toNat).reverse)

/-- The fields of a frame of class k, cut out of `V` at the bit positions of R94 to R99. -/
def Config.frameFields (cfg : Config) (k : FrameClass) (v : Frame) : Instr :=
  match k with
  | .c8x8 => .frame8x8 (v.extractLsb' 8 8) (v.extractLsb' 16 8) (v.extractLsb' 24 8) (cfg.inOrder (v.extractLsb' 32 8))
    (cfg.inOrder (v.extractLsb' 40 8)) (v.extractLsb' 48 80)
  | .c8x16 => .frame8x16 (v.extractLsb' 8 8) (v.extractLsb' 16 8) (v.extractLsb' 24 8) (cfg.inOrder (v.extractLsb' 32 8))
    (cfg.inOrder (v.extractLsb' 40 16)) (v.extractLsb' 56 72)
  | .c8x32 => .frame8x32 (v.extractLsb' 8 8) (v.extractLsb' 16 8) (v.extractLsb' 24 8) (cfg.inOrder (v.extractLsb' 32 8))
    (cfg.inOrder (v.extractLsb' 40 32)) (v.extractLsb' 72 56)
  | .c8x64 => .frame8x64 (v.extractLsb' 8 8) (v.extractLsb' 16 8) (v.extractLsb' 24 8) (cfg.inOrder (v.extractLsb' 32 8))
    (cfg.inOrder (v.extractLsb' 40 64)) (v.extractLsb' 104 24)
  | .c16x64 => .frame16x64 (v.extractLsb' 8 8) (v.extractLsb' 16 8) (v.extractLsb' 24 8) (cfg.inOrder (v.extractLsb' 32 16))
    (cfg.inOrder (v.extractLsb' 48 64)) (v.extractLsb' 112 16)
  | .c32x32 => .frame32x32 (v.extractLsb' 8 8) (v.extractLsb' 16 8) (v.extractLsb' 24 8) (cfg.inOrder (v.extractLsb' 32 32))
    (cfg.inOrder (v.extractLsb' 64 32)) (v.extractLsb' 96 32)

/-- A frame: the magic alone selects the format (`mask` of R116), and every other bit belongs to a field. -/
def Config.decodeFrame (cfg : Config) (v : Frame) : Except DecodeError Instr :=
  match cfg.classOfMagic (v.extractLsb' 0 8) with
  | some k => .ok (cfg.frameFields k v)
  | none => .error (.notAMagic (v.extractLsb' 0 8))

/-- One command byte or one frame from the front of a list of bytes, with the bytes that follow it. -/
def Config.decode (cfg : Config) : List Byte → Except DecodeError (Instr × List Byte)
  | [] => .error .noByte
  | b :: rest =>
    match cfg.decodeCommand b with
    | .ok i => .ok (i, rest)
    | .error _ =>
      match cfg.classOfMagic b with
      | none => .error (.unknownFirstByte b)
      | some k =>
        if rest.length < cfg.frameLen - 1 then .error (.truncatedFrame b)
        else .ok (cfg.frameFields k (frameOfBytes (b :: rest.take (cfg.frameLen - 1))), rest.drop (cfg.frameLen - 1))

/-- The decoders of this block (R7). -/
def decodeCommand (b : Byte) : Except DecodeError Instr := Config.std.decodeCommand b

def classOfMagic (b : Byte) : Option FrameClass := Config.std.classOfMagic b

def decodeFrame (v : Frame) : Except DecodeError Instr := Config.std.decodeFrame v

def decode (bs : List Byte) : Except DecodeError (Instr × List Byte) := Config.std.decode bs

/-- Whether an instruction is one of the twenty commands (a frame row is data, R116). -/
def Instr.isCommand : Instr → Bool
  | .clrerr => true
  | .build8x8 => true
  | .build8x16 => true
  | .build8x32 => true
  | .build8x64 => true
  | .build16x64 => true
  | .build32x32 => true
  | .parse8x8 => true
  | .parse8x16 => true
  | .parse8x32 => true
  | .parse8x64 => true
  | .parse16x64 => true
  | .parse32x32 => true
  | .reduce => true
  | .double => true
  | .calcms => true
  | .pack => true
  | .unpack => true
  | .msaddr => true
  | .renc => true
  | .frame8x8 _ _ _ _ _ _ => false
  | .frame8x16 _ _ _ _ _ _ => false
  | .frame8x32 _ _ _ _ _ _ => false
  | .frame8x64 _ _ _ _ _ _ => false
  | .frame16x64 _ _ _ _ _ _ => false
  | .frame32x32 _ _ _ _ _ _ => false

/-- The encoding of an instruction. A command is its group and its function (R100: `c[7:4]` and `c[3:0]`; in groups 1 and 2
the function is the class index). A frame is its fields laid end to end, the class's magic lowest (R91, R92, R94 to R99). -/
def Config.encode (cfg : Config) : Instr → List Byte
  | .clrerr => [0x0#4 ++ 0x1#4]
  | .build8x8 => [0x1#4 ++ 0x0#4]
  | .build8x16 => [0x1#4 ++ 0x1#4]
  | .build8x32 => [0x1#4 ++ 0x2#4]
  | .build8x64 => [0x1#4 ++ 0x3#4]
  | .build16x64 => [0x1#4 ++ 0x4#4]
  | .build32x32 => [0x1#4 ++ 0x5#4]
  | .parse8x8 => [0x2#4 ++ 0x0#4]
  | .parse8x16 => [0x2#4 ++ 0x1#4]
  | .parse8x32 => [0x2#4 ++ 0x2#4]
  | .parse8x64 => [0x2#4 ++ 0x3#4]
  | .parse16x64 => [0x2#4 ++ 0x4#4]
  | .parse32x32 => [0x2#4 ++ 0x5#4]
  | .reduce => [0x3#4 ++ 0x0#4]
  | .double => [0x3#4 ++ 0x1#4]
  | .calcms => [0x3#4 ++ 0x2#4]
  | .pack => [0x3#4 ++ 0x3#4]
  | .unpack => [0x3#4 ++ 0x4#4]
  | .msaddr => [0x3#4 ++ 0x5#4]
  | .renc => [0x3#4 ++ 0x6#4]
  | .frame8x8 target flags reserved addr data padding =>
    cfg.frameBytes (padding ++ cfg.inOrder data ++ cfg.inOrder addr ++ reserved ++ flags ++ target ++ cfg.magic .c8x8)
  | .frame8x16 target flags reserved addr data padding =>
    cfg.frameBytes (padding ++ cfg.inOrder data ++ cfg.inOrder addr ++ reserved ++ flags ++ target ++ cfg.magic .c8x16)
  | .frame8x32 target flags reserved addr data padding =>
    cfg.frameBytes (padding ++ cfg.inOrder data ++ cfg.inOrder addr ++ reserved ++ flags ++ target ++ cfg.magic .c8x32)
  | .frame8x64 target flags reserved addr data padding =>
    cfg.frameBytes (padding ++ cfg.inOrder data ++ cfg.inOrder addr ++ reserved ++ flags ++ target ++ cfg.magic .c8x64)
  | .frame16x64 target flags reserved addr data padding =>
    cfg.frameBytes (padding ++ cfg.inOrder data ++ cfg.inOrder addr ++ reserved ++ flags ++ target ++ cfg.magic .c16x64)
  | .frame32x32 target flags reserved addr data padding =>
    cfg.frameBytes (padding ++ cfg.inOrder data ++ cfg.inOrder addr ++ reserved ++ flags ++ target ++ cfg.magic .c32x32)

/-- The encoder of this block (R7). -/
def encode (i : Instr) : List Byte := Config.std.encode i

/-- The sixteen bytes of a table word: bit 0 is the least significant bit of the first byte; bits from nbits on are zero. -/
def tableBytes (nbits w : Nat) : List Byte := leBytes frameLen (w % 2 ^ nbits)

/-- The instruction the decoder reads from an instruction whose bits are w, numbered as spec/opcode_table.json numbers them. -/
def decodeTableWord (nbits w : Nat) : Option Instr :=
  match decode (tableBytes nbits w) with
  | .ok (i, _) => some i
  | .error _ => none

end Sys2Proof
end

