-- ==== Sys2Proof/Machine/State.lean ====
section
/-! DEFINITION. The state: the block, which is the 26 stored host registers and the buffer space (10_state R20, R21, R33), and
beside it what the outside world will do (`pending`) and has received (`seen`), which is no part of the block (R35).
State is plain data. -/

namespace Sys2Proof.Machine

/-- Buffer space as the list of the bytes something has written, addresses strictly rising (20_memory R60, R61).
An address that is not listed holds no value: nothing has written it since reset (10_state R37; log 2). -/
abbrev Memory := List Host.Cell

/-- The 27 host registers (R21). -/
inductive Reg where
  | cmd
  | lastErr
  | errs
  | errInfo
  | fTid
  | fFlags
  | fAddr
  | fData
  | pTid
  | pFlags
  | pAddr
  | pData
  | pSuccess
  | rInt
  | rNum
  | rDen
  | msIdx
  | msDbl
  | msA
  | msB
  | msC
  | msR
  | msP1
  | msP2
  | msP3
  | msBase
  | msRreg
  deriving DecidableEq, Repr

/-- One action on the block (30_encoding R108; 70_reset R280): the host's, the transport's, or the reset input's.
An access names any number: one that does not exist or does not fit is a case of the access's own rule (44_system R222, R224). -/
inductive Action where
  /-- `wr REG, v` (R221): register number and value -/
  | wr (reg value : Nat)
  /-- `rd REG` (R220) -/
  | rd (reg : Nat)
  /-- `stb a, v` (R225) -/
  | stb (addr value : Nat)
  /-- `ldb a` (R223) -/
  | ldb (addr : Nat)
  /-- `take`: the transport reads TXF (R228) -/
  | take
  /-- `deliver b0 ... b15`: the transport writes RXF, any sixteen bytes (R228; U3) -/
  | deliver (frame : Frame)
  /-- the reset input (R280) -/
  | reset
  deriving DecidableEq, Repr

/-- What an action handed to the outside. -/
inductive Observation where
  /-- the value a `rd` or `ldb` handed to the host (R220, R223) -/
  | hostReceived (value : BitVec 64)
  /-- the frame a `take` read: "the request leaves" (R228) -/
  | requestLeft (frame : Frame)
  deriving DecidableEq, Repr

/-- Why a run stops with a fault. Every exception of the spec is a next state; this is the spec's one model-level fault. -/
inductive Fault where
  /-- A command, an `ldb` or a `take` reads a buffer byte that nothing has written since reset (10_state R37, 70_reset R283).
  Raised by PARSE.*, UNPACK, `ldb`, `take`. SAFE: the model stops where the hardware goes on with an unspecified byte. -/
  | unwrittenByte (addr : Nat)
  deriving DecidableEq, Repr

/-- Why a run stops with a refusal. -/
inductive Refusal where
  /-- An instruction that has no meaning yet. Raised by no arm of `exec`: every instruction has its meaning. SAFE. -/
  | notModelled (mnemonic : String)
  deriving DecidableEq, Repr

/-- The block: the architectural state of 10_state R20, with no hidden state beside it (R34).
`CMD` is not stored (R22), so it has no field. -/
structure Block where
  /-- x[1] `LAST_ERR` -/
  lastErr : BitVec 3
  /-- x[2] `ERRS` -/
  errs : BitVec 8
  /-- x[3] `ERRINFO` -/
  errInfo : BitVec 16
  /-- x[4] `F_TID` -/
  fTid : BitVec 8
  /-- x[5] `F_FLAGS` -/
  fFlags : BitVec 8
  /-- x[6] `F_ADDR` -/
  fAddr : BitVec 32
  /-- x[7] `F_DATA` -/
  fData : BitVec 64
  /-- x[8] `P_TID` -/
  pTid : BitVec 8
  /-- x[9] `P_FLAGS` -/
  pFlags : BitVec 8
  /-- x[10] `P_ADDR` -/
  pAddr : BitVec 32
  /-- x[11] `P_DATA` -/
  pData : BitVec 64
  /-- x[12] `P_SUCCESS` -/
  pSuccess : BitVec 1
  /-- x[13] `R_INT` -/
  rInt : BitVec rateBits
  /-- x[14] `R_NUM` -/
  rNum : BitVec rateBits
  /-- x[15] `R_DEN` -/
  rDen : BitVec rateBits
  /-- x[16] `MS_IDX` -/
  msIdx : BitVec 8
  /-- x[17] `MS_DBL` -/
  msDbl : BitVec 1
  /-- x[18] `MS_A` -/
  msA : BitVec 16
  /-- x[19] `MS_B` -/
  msB : BitVec 32
  /-- x[20] `MS_C` -/
  msC : BitVec 32
  /-- x[21] `MS_R` -/
  msR : BitVec 8
  /-- x[22] `MS_P1` -/
  msP1 : BitVec 32
  /-- x[23] `MS_P2` -/
  msP2 : BitVec 32
  /-- x[24] `MS_P3` -/
  msP3 : BitVec 32
  /-- x[25] `MS_BASE` -/
  msBase : BitVec 8
  /-- x[26] `MS_RREG` -/
  msRreg : BitVec 8
  /-- `TXF` at 0x00, `RXF` at 0x10, `MSREG` at 0x20 -/
  mem : Memory
  /-- the MODEL's own (log 3): the registers that have held no specified value since a reset action (R36, R37) -/
  unset : List Reg
  /-- the MODEL's own (log 3): how many free values have been drawn -/
  draws : Nat
  deriving DecidableEq, Repr

/-- The block, and the outside world beside it. R35 makes the host's operations and the bytes the transport delivers a parameter
of the step relation: that relation is `blockTurn` (Relation.lean), on a `Block`. A run needs the actions in order. -/
structure State extends Block where
  /-- the MODEL's own (log 4): the actions still to come, oldest first -/
  pending : List Action
  /-- the MODEL's own (log 5): what was handed out, newest first -/
  seen : List Observation
  deriving DecidableEq, Repr

/-- Right after reset (10_state R36): the error registers are 0 and no buffer byte has been written.
The other registers are unspecified; the model names 0 for each of them (DESIGN CHOICE, unsafe; log 1). -/
def State.reset : State where
  lastErr := 0
  errs := 0
  errInfo := 0
  fTid := 0
  fFlags := 0
  fAddr := 0
  fData := 0
  pTid := 0
  pFlags := 0
  pAddr := 0
  pData := 0
  pSuccess := 0
  rInt := 0
  rNum := 0
  rDen := 0
  msIdx := 0
  msDbl := 0
  msA := 0
  msB := 0
  msC := 0
  msR := 0
  msP1 := 0
  msP2 := 0
  msP3 := 0
  msBase := 0
  msRreg := 0
  mem := []
  unset := []
  draws := 0
  pending := []
  seen := []

end Sys2Proof.Machine
end

