-- ==== Sys2Proof/Machine/Operands.lean ====
section
/-! DEFINITION. The operand forms: the host registers by number (10_state R21), and buffer bytes and frame fields
(20_memory R62, R63; 30_encoding R102; 44_system R230). -/

namespace Sys2Proof.Machine

/-- The host's access rights, column "acc" of R21. -/
inductive Access where
  | readOnly | writeOnly | readWrite
  deriving DecidableEq, Repr

/-- The registers in the order of their numbers 0 to 26. -/
def regList : List Reg :=
  [.cmd, .lastErr, .errs, .errInfo, .fTid, .fFlags, .fAddr, .fData, .pTid, .pFlags, .pAddr, .pData, .pSuccess, .rInt, .rNum, .rDen, .msIdx, .msDbl, .msA, .msB, .msC, .msR, .msP1, .msP2, .msP3, .msBase, .msRreg]

/-- The register a number names; numbers 27 and above do not exist (R21, 44_system R222). -/
def regOf (i : Nat) : Option Reg := regList[i]?

/-- The number of a register (R21). -/
def regNumber : Reg → Nat
  | .cmd => 0
  | .lastErr => 1
  | .errs => 2
  | .errInfo => 3
  | .fTid => 4
  | .fFlags => 5
  | .fAddr => 6
  | .fData => 7
  | .pTid => 8
  | .pFlags => 9
  | .pAddr => 10
  | .pData => 11
  | .pSuccess => 12
  | .rInt => 13
  | .rNum => 14
  | .rDen => 15
  | .msIdx => 16
  | .msDbl => 17
  | .msA => 18
  | .msB => 19
  | .msC => 20
  | .msR => 21
  | .msP1 => 22
  | .msP2 => 23
  | .msP3 => 24
  | .msBase => 25
  | .msRreg => 26

/-- The width of a register, bits (R21); the rate registers are `W_RATE` wide (00_scope R7). -/
def regWidth (cfg : Config) : Reg → Nat
  | .cmd => 8
  | .lastErr => 3
  | .errs => 8
  | .errInfo => 16
  | .fTid => 8
  | .fFlags => 8
  | .fAddr => 32
  | .fData => 64
  | .pTid => 8
  | .pFlags => 8
  | .pAddr => 32
  | .pData => 64
  | .pSuccess => 1
  | .rInt => cfg.wRate
  | .rNum => cfg.wRate
  | .rDen => cfg.wRate
  | .msIdx => 8
  | .msDbl => 1
  | .msA => 16
  | .msB => 32
  | .msC => 32
  | .msR => 8
  | .msP1 => 32
  | .msP2 => 32
  | .msP3 => 32
  | .msBase => 8
  | .msRreg => 8

/-- The host's access to a register (R21, 44_system R221). -/
def regAccess : Reg → Access
  | .cmd => .writeOnly
  | .lastErr => .readOnly
  | .errs => .readOnly
  | .errInfo => .readOnly
  | .fTid => .readWrite
  | .fFlags => .readWrite
  | .fAddr => .readWrite
  | .fData => .readWrite
  | .pTid => .readOnly
  | .pFlags => .readOnly
  | .pAddr => .readOnly
  | .pData => .readOnly
  | .pSuccess => .readOnly
  | .rInt => .readWrite
  | .rNum => .readWrite
  | .rDen => .readWrite
  | .msIdx => .readWrite
  | .msDbl => .readWrite
  | .msA => .readWrite
  | .msB => .readWrite
  | .msC => .readWrite
  | .msR => .readWrite
  | .msP1 => .readOnly
  | .msP2 => .readOnly
  | .msP3 => .readOnly
  | .msBase => .readOnly
  | .msRreg => .readOnly

/-- What a host read of a register returns, zero-extended to the widest register; `CMD` reads 0 (R22, 44_system R220). -/
def readReg (r : Reg) (s : Block) : BitVec 64 :=
  match r with
  | .cmd => 0
  | .lastErr => s.lastErr.setWidth 64
  | .errs => s.errs.setWidth 64
  | .errInfo => s.errInfo.setWidth 64
  | .fTid => s.fTid.setWidth 64
  | .fFlags => s.fFlags.setWidth 64
  | .fAddr => s.fAddr.setWidth 64
  | .fData => s.fData.setWidth 64
  | .pTid => s.pTid.setWidth 64
  | .pFlags => s.pFlags.setWidth 64
  | .pAddr => s.pAddr.setWidth 64
  | .pData => s.pData.setWidth 64
  | .pSuccess => s.pSuccess.setWidth 64
  | .rInt => s.rInt.setWidth 64
  | .rNum => s.rNum.setWidth 64
  | .rDen => s.rDen.setWidth 64
  | .msIdx => s.msIdx.setWidth 64
  | .msDbl => s.msDbl.setWidth 64
  | .msA => s.msA.setWidth 64
  | .msB => s.msB.setWidth 64
  | .msC => s.msC.setWidth 64
  | .msR => s.msR.setWidth 64
  | .msP1 => s.msP1.setWidth 64
  | .msP2 => s.msP2.setWidth 64
  | .msP3 => s.msP3.setWidth 64
  | .msBase => s.msBase.setWidth 64
  | .msRreg => s.msRreg.setWidth 64

/-- A data register takes a value. `CMD` is not stored, and the error registers change only by a recording, at the end of a
command and by CLRERR or reset (R22 to R25): of these four no value is set here. -/
def setReg (r : Reg) (v : Nat) (s : Block) : Block :=
  match r with
  | .cmd => s
  | .lastErr => s
  | .errs => s
  | .errInfo => s
  | .fTid => { s with fTid := BitVec.ofNat 8 v }
  | .fFlags => { s with fFlags := BitVec.ofNat 8 v }
  | .fAddr => { s with fAddr := BitVec.ofNat 32 v }
  | .fData => { s with fData := BitVec.ofNat 64 v }
  | .pTid => { s with pTid := BitVec.ofNat 8 v }
  | .pFlags => { s with pFlags := BitVec.ofNat 8 v }
  | .pAddr => { s with pAddr := BitVec.ofNat 32 v }
  | .pData => { s with pData := BitVec.ofNat 64 v }
  | .pSuccess => { s with pSuccess := BitVec.ofNat 1 v }
  | .rInt => { s with rInt := BitVec.ofNat rateBits v }
  | .rNum => { s with rNum := BitVec.ofNat rateBits v }
  | .rDen => { s with rDen := BitVec.ofNat rateBits v }
  | .msIdx => { s with msIdx := BitVec.ofNat 8 v }
  | .msDbl => { s with msDbl := BitVec.ofNat 1 v }
  | .msA => { s with msA := BitVec.ofNat 16 v }
  | .msB => { s with msB := BitVec.ofNat 32 v }
  | .msC => { s with msC := BitVec.ofNat 32 v }
  | .msR => { s with msR := BitVec.ofNat 8 v }
  | .msP1 => { s with msP1 := BitVec.ofNat 32 v }
  | .msP2 => { s with msP2 := BitVec.ofNat 32 v }
  | .msP3 => { s with msP3 := BitVec.ofNat 32 v }
  | .msBase => { s with msBase := BitVec.ofNat 8 v }
  | .msRreg => { s with msRreg := BitVec.ofNat 8 v }

/-- The registers a reset leaves unspecified (R36): all that are stored but the three error registers. -/
def dataRegs : List Reg := regList.drop 4

/-- Registers that are written hold a specified value from then on (R37). -/
def settle (rs : List Reg) (unset : List Reg) : List Reg := unset.filter (fun r => r ∉ rs)

/-- A host register takes a value the host writes (44_system R221). -/
def writeReg (r : Reg) (v : Nat) (s : Block) : Block := { setReg r v s with unset := settle [r] s.unset }

/-- One unspecified register takes a free value of its width, a new one for every draw (R37; log 3). -/
def redraw (cfg : Config) (s : Block) (r : Reg) : Block :=
  { setReg r ((Config.unspecified s.draws).toNat % 2 ^ regWidth cfg r) s with draws := s.draws + 1 }

/-- Every register that holds no specified value takes a new free value: "a model ... must not assume that two reads before the
first write return the same value" (R37). -/
def refresh (cfg : Config) (s : Block) : Block := s.unset.foldl (redraw cfg) s

/-- The numbers of the buffer space (20_memory R61). -/
abbrev txfBase : Nat := 0x00
abbrev rxfBase : Nat := 0x10
abbrev msregBase : Nat := 0x20

/-- Buffer addresses 0x2A and above do not exist (R61). -/
abbrev bufSize : Nat := 0x2A

/-- One byte of buffer space; `none` when nothing has written it since reset (R37; log 2). -/
def Memory.read : Memory → Nat → Option Byte
  | [], _ => none
  | c :: cs, a => if c.1 = a then some c.2 else Memory.read cs a

/-- Writes one byte and keeps the list sorted, one entry an address. -/
def Memory.write : Memory → Nat → Byte → Memory
  | [], a, b => [(a, b)]
  | c :: cs, a, b =>
    if a < c.1 then (a, b) :: c :: cs
    else if c.1 = a then (a, b) :: cs
    else c :: Memory.write cs a b

/-- Writes bytes at consecutive addresses, the first at a. -/
def Memory.writeBytes : Memory → Nat → List Byte → Memory
  | m, _, [] => m
  | m, a, b :: bs => Memory.writeBytes (Memory.write m a b) (a + 1) bs

/-- `MemWrite(a, n, v)`: little-endian (R63). -/
def memWrite (m : Memory) (a n v : Nat) : Memory := Memory.writeBytes m a (leBytes n v)

/-- The addresses of a memory are strictly rising from a bound on and inside the buffer space. -/
def Memory.wfFrom : Nat → Memory → Bool
  | _, [] => true
  | lo, c :: cs => decide (lo ≤ c.1) && decide (c.1 < bufSize) && Memory.wfFrom (c.1 + 1) cs

/-- The canonical form: addresses strictly rising, all of them addresses of R61. An unlisted address reads as no value,
so no entry can equal what an unlisted address reads as. -/
def Memory.wf (m : Memory) : Bool := Memory.wfFrom 0 m

end Sys2Proof.Machine
end

