-- ==== Sys2Proof/Machine/Flags.lean ====
section
/-! DEFINITION. The flag computations: the frame flags byte (10_state R31, R32), the sticky cause bits (R24), the causes
(60_exceptions R240) and the content of `ERRINFO` (R25, R243). -/

namespace Sys2Proof.Machine

/-- The six causes of the error taxonomy (R240). The block raises or records only 2, 3, 4 and 6: TransportError and
ConvergenceError belong to the transport and the tuning engine (R241). -/
inductive Cause where
  | transportError | protocolError | operationFailed | rangeError | convergenceError | invalidState
  deriving DecidableEq, Repr

/-- The code of a cause, as `LAST_ERR` holds it (R240). -/
def causeCode : Cause → BitVec 3
  | .transportError => 1
  | .protocolError => 2
  | .operationFailed => 3
  | .rangeError => 4
  | .convergenceError => 5
  | .invalidState => 6

/-- The sticky bit of a cause: bit c of `ERRS` for cause c (R24). -/
def stickyBit (c : Cause) : BitVec 8 := 1#8 <<< (causeCode c).toNat

/-- `ERRINFO = (s << 8) | v` (R250): the sub-code above the value. -/
def errInfoOf (sub val : Byte) : BitVec 16 := sub ++ val

/-- Flags bit 0, `WRITE` (R31): read by the device only. -/
def writeFlag (flags : Byte) : BitVec 1 := flags.extractLsb' 0 1

/-- Flags bit 1, `SUCCESS` (R31): `P_SUCCESS = RXF[2][1]` (R32). -/
def successFlag (flags : Byte) : BitVec 1 := flags.extractLsb' 1 1

end Sys2Proof.Machine
end

