-- ==== Sys2Proof/Machine/Ops.lean ====
section
/-! DEFINITION. The shared operations: taking an exception and returning from it (60_exceptions R250 to R256), how a command
ends (00_scope R11, R12), the reads of buffer space, and the transport's write of `RXF` (44_system R228). -/

namespace Sys2Proof.Machine

/-- TAKING AN EXCEPTION (R250): the three writes of a recording, whether by `raise` or by `record`.
Nothing else is saved and control goes nowhere (R250, R252). -/
def recordCause (c : Cause) (sub val : Byte) (s : Block) : Block :=
  { s with lastErr := causeCode c, errs := s.errs ||| stickyBit c, errInfo := errInfoOf sub val }

/-- THE RETURN (R226, R256): zeroes the three error registers and restores nothing, because nothing was saved. -/
def clearErrors (s : Block) : Block := { s with lastErr := 0, errs := 0, errInfo := 0 }

/-- A command that ends with no cause: `LAST_ERR <- 0`; `ERRS` and `ERRINFO` stay (R23, R256). -/
def endNormally (s : Block) : Block := { s with lastErr := 0 }

/-- How the computation of a command is cut short. -/
inductive Abort where
  /-- `raise <Exception>(sub, val)` (00_scope R11) -/
  | raise (c : Cause) (sub val : Byte)
  /-- the model fault of R37 -/
  | unwritten (addr : Nat)
  deriving DecidableEq, Repr

/-- `if p: raise <Exception>(sub, val)`: the first raise reached ends the command (R12). -/
def raiseIf (p : Prop) [Decidable p] (c : Cause) (sub val : Byte) : Except Abort Unit :=
  if p then .error (.raise c sub val) else .ok ()

/-- The end of a command started in s. A `raise` is precise and clean (R251): the recording is the only change to s. -/
def finish (s : Block) : Except Abort Block → Host.Outcome Block Fault Refusal
  | .ok t => .next t
  | .error (.raise c sub val) => .next (recordCause c sub val s)
  | .error (.unwritten a) => .fault (.unwrittenByte a)

/-- A command's read of one buffer byte (R37; log 2). -/
def fetchByte (m : Memory) (a : Nat) : Except Abort Byte :=
  match Memory.read m a with
  | some b => .ok b
  | none => .error (.unwritten a)

/-- A command's read of n consecutive bytes, lowest address first. -/
def fetchBytes (m : Memory) : Nat → Nat → Except Abort (List Byte)
  | _, 0 => .ok []
  | a, n + 1 => do
    let b ← fetchByte m a
    let bs ← fetchBytes m (a + 1) n
    pure (b :: bs)

/-- `MemRead(a, n)` (20_memory R62): the bytes at a to a+n-1 assembled little-endian. -/
def memRead (m : Memory) (a n : Nat) : Except Abort Nat := (fetchBytes m a n).map leValue

/-- A frame field of n bytes at an address, in the byte order `FIELD_ENDIAN` (R64, 30_encoding R102);
with `little` it is `MemRead(a, n)`. -/
def fetchField (e : Endian) (m : Memory) (a n : Nat) : Except Abort Nat := (fetchBytes m a n).map (fieldValue e)

/-- Buffer space with bytes laid down from an address on. -/
def storeBytes (a : Nat) (bs : List Byte) (s : Block) : Block := { s with mem := Memory.writeBytes s.mem a bs }

/-- `deliver` (R228): the bytes of a frame into `RXF` in one action; it changes nothing else and records no cause. -/
def deliverFrame (cfg : Config) (f : Frame) (s : Block) : Block := storeBytes rxfBase (cfg.frameBytes f) s

/-- What a command does to the block, in a state with the outside world beside it: that it neither reads nor changes (R35). -/
def onBlock (command : Block → Host.Outcome Block Fault Refusal) (s : State) : Host.Outcome State Fault Refusal :=
  match command s.toBlock with
  | .next b => .next { s with toBlock := b }
  | .fault r => .fault r
  | .refused r => .refused r

/-- A change of the block alone. -/
def State.mapBlock (f : Block → Block) (s : State) : State := { s with toBlock := f s.toBlock }

/-- Hands a value to the outside (log 5). -/
def observe (o : Observation) (s : State) : State := { s with seen := o :: s.seen }

end Sys2Proof.Machine
end

