-- ==== Sys2Proof/Machine/Build.lean ====
section
/-! DEFINITION. The frame build commands BUILD.8x8 to BUILD.32x32 (40_frame_build R130 to R137). -/

namespace Sys2Proof.Machine

/-- The sixteen bytes BUILD.k lays down, or the exception it raises (R131): the address is tested first, then the data.
A function of the four operands and the parameters alone (R139). -/
def buildBytes (cfg : Config) (k : FrameClass) (tid flags : Byte) (addr data : Nat) : Except Abort (List Byte) := do
  raiseIf (2 ^ cfg.aw k ≤ addr) .invalidState 2 0
  raiseIf (2 ^ cfg.dw k ≤ data) .invalidState 2 1
  pure ([cfg.magic k, tid, flags, 0x00] ++ fieldBytes cfg.fieldEndian (cfg.na k) addr ++ fieldBytes cfg.fieldEndian (cfg.nd k) data
    ++ List.replicate (cfg.frameLen - 4 - cfg.na k - cfg.nd k) 0x00)

/-- BUILD.k (R131): all sixteen bytes of `TXF` are written and `LAST_ERR <- 0`, or nothing but the exception is. -/
def buildFrame (cfg : Config) (k : FrameClass) (s : Block) : Host.Outcome Block Fault Refusal :=
  finish s ((buildBytes cfg k s.fTid s.fFlags s.fAddr.toNat s.fData.toNat).map
    (fun bytes => endNormally (storeBytes txfBase bytes s)))

/-- `BUILD.8x8` (R132) -/
def execBuild8x8 (s : State) : Host.Outcome State Fault Refusal := onBlock (buildFrame Config.std .c8x8) s

/-- `BUILD.8x16` (R133) -/
def execBuild8x16 (s : State) : Host.Outcome State Fault Refusal := onBlock (buildFrame Config.std .c8x16) s

/-- `BUILD.8x32` (R134) -/
def execBuild8x32 (s : State) : Host.Outcome State Fault Refusal := onBlock (buildFrame Config.std .c8x32) s

/-- `BUILD.8x64` (R135) -/
def execBuild8x64 (s : State) : Host.Outcome State Fault Refusal := onBlock (buildFrame Config.std .c8x64) s

/-- `BUILD.16x64` (R136) -/
def execBuild16x64 (s : State) : Host.Outcome State Fault Refusal := onBlock (buildFrame Config.std .c16x64) s

/-- `BUILD.32x32` (R137) -/
def execBuild32x32 (s : State) : Host.Outcome State Fault Refusal := onBlock (buildFrame Config.std .c32x32) s

end Sys2Proof.Machine
end

