-- ==== Sys2Proof/Machine/Frames.lean ====
section
/-! DEFINITION. The six frame rows of the opcode table (30_encoding R94 to R99, R116).
"Frames are data, not commands". The one effect the spec gives a frame at the block's port is its delivery into `RXF` by the
transport (44_system R228), and that is the meaning of a frame row (DESIGN CHOICE; log 6). -/

namespace Sys2Proof.Machine

/-- The bytes of a frame row are delivered (R116, R228). -/
def deliverRow (cfg : Config) (i : Instr) (b : Block) : Host.Outcome Block Fault Refusal :=
  .next (deliverFrame cfg (frameOfBytes (cfg.encode i)) b)

/-- `FRAME.8x8` (R94): these sixteen bytes are delivered. -/
def execFrame8x8 (target flags reserved : Byte) (addr : BitVec 8) (data : BitVec 8) (padding : BitVec 80) (s : State) :
    Host.Outcome State Fault Refusal :=
  onBlock (deliverRow Config.std (.frame8x8 target flags reserved addr data padding)) s

/-- `FRAME.8x16` (R95): these sixteen bytes are delivered. -/
def execFrame8x16 (target flags reserved : Byte) (addr : BitVec 8) (data : BitVec 16) (padding : BitVec 72) (s : State) :
    Host.Outcome State Fault Refusal :=
  onBlock (deliverRow Config.std (.frame8x16 target flags reserved addr data padding)) s

/-- `FRAME.8x32` (R96): these sixteen bytes are delivered. -/
def execFrame8x32 (target flags reserved : Byte) (addr : BitVec 8) (data : BitVec 32) (padding : BitVec 56) (s : State) :
    Host.Outcome State Fault Refusal :=
  onBlock (deliverRow Config.std (.frame8x32 target flags reserved addr data padding)) s

/-- `FRAME.8x64` (R97): these sixteen bytes are delivered. -/
def execFrame8x64 (target flags reserved : Byte) (addr : BitVec 8) (data : BitVec 64) (padding : BitVec 24) (s : State) :
    Host.Outcome State Fault Refusal :=
  onBlock (deliverRow Config.std (.frame8x64 target flags reserved addr data padding)) s

/-- `FRAME.16x64` (R98): these sixteen bytes are delivered. -/
def execFrame16x64 (target flags reserved : Byte) (addr : BitVec 16) (data : BitVec 64) (padding : BitVec 16) (s : State) :
    Host.Outcome State Fault Refusal :=
  onBlock (deliverRow Config.std (.frame16x64 target flags reserved addr data padding)) s

/-- `FRAME.32x32` (R99): these sixteen bytes are delivered. -/
def execFrame32x32 (target flags reserved : Byte) (addr : BitVec 32) (data : BitVec 32) (padding : BitVec 32) (s : State) :
    Host.Outcome State Fault Refusal :=
  onBlock (deliverRow Config.std (.frame32x32 target flags reserved addr data padding)) s

end Sys2Proof.Machine
end

