-- ==== Sys2Proof/Machine/Rational.lean ====
section
/-! DEFINITION. The arithmetic laws of Unit R and the rate commands REDUCE and DOUBLE (42_rational R170 to R175).
Every intermediate value is an exact natural number; where it must fit 64 bits the rule tests it (R171). -/

namespace Sys2Proof.Machine

/-- `RationalRate {integer, num, den}`: the rate `int + num/den` (10_state R28). -/
structure Rate where
  int : Nat
  num : Nat
  den : Nat
  deriving DecidableEq, Repr

/-- `gcd(x, y)` (R172). "Every form of the Euclidean algorithm returns the same value": this is the library's (log 13). -/
def euclidGcd (x y : Nat) : Nat := Nat.gcd x y

/-- The loop of R172 as the rule writes it, with a bound on its iterations (R178: 130 are enough for 64-bit operands). -/
def euclidLoop : Nat → Nat → Nat → Nat
  | 0, x, _ => x
  | n + 1, x, y => if y ≠ 0 then euclidLoop n y (x % y) else x

/-- `reduce` (R174). -/
def reduceRate (cfg : Config) (x : Rate) : Except Abort Rate := do
  raiseIf (x.den = 0) .invalidState 3 0
  let whole := x.num / x.den
  let i2 := x.int + whole
  raiseIf (2 ^ cfg.wRate ≤ i2) .rangeError 2 1
  let n1 := x.num % x.den
  let g := euclidGcd n1 x.den
  pure ⟨i2, n1 / g, x.den / g⟩

/-- `double` (R175): the denominator test comes first, then steps 2 and 3, then reduce with its own test. -/
def doubleRate (cfg : Config) (x : Rate) : Except Abort Rate := do
  raiseIf (x.den = 0) .invalidState 3 0
  let i1 := 2 * x.int
  raiseIf (2 ^ cfg.wRate ≤ i1) .rangeError 2 2
  let n1 := 2 * x.num
  raiseIf (2 ^ cfg.wRate ≤ n1) .rangeError 2 3
  reduceRate cfg ⟨i1, n1, x.den⟩

/-- The rate in `R_INT`, `R_NUM`, `R_DEN` (10_state R28). -/
def rateOf (s : Block) : Rate := ⟨s.rInt.toNat, s.rNum.toNat, s.rDen.toNat⟩

/-- The rate registers take a rate, in place (R174; D40). -/
def withRate (x : Rate) (s : Block) : Block :=
  { s with rInt := BitVec.ofNat rateBits x.int, rNum := BitVec.ofNat rateBits x.num, rDen := BitVec.ofNat rateBits x.den,
           unset := settle [.rInt, .rNum, .rDen] s.unset }

/-- REDUCE (R174) -/
def reduceCommand (cfg : Config) (s : Block) : Host.Outcome Block Fault Refusal :=
  finish s ((reduceRate cfg (rateOf s)).map (fun x => endNormally (withRate x s)))

/-- DOUBLE (R175) -/
def doubleCommand (cfg : Config) (s : Block) : Host.Outcome Block Fault Refusal :=
  finish s ((doubleRate cfg (rateOf s)).map (fun x => endNormally (withRate x s)))

/-- `REDUCE` (R174) -/
def execReduce (s : State) : Host.Outcome State Fault Refusal := onBlock (reduceCommand Config.std) s

/-- `DOUBLE` (R175) -/
def execDouble (s : State) : Host.Outcome State Fault Refusal := onBlock (doubleCommand Config.std) s

end Sys2Proof.Machine
end

