-- ==== Sys2Proof/Machine/Multisynth.lean ====
section
/-! DEFINITION. The multisynth commands CALCMS, PACK, UNPACK, MSADDR, RENC (43_multisynth R185 to R207). -/

namespace Sys2Proof.Machine

/-- The r search (R186, R188): doubles the rate and r while the integer part is below `F_RMIN` and r is below `R_MAX`.
The first argument bounds the iterations. -/
def searchDivider (cfg : Config) : Nat → Rate → Nat → Except Abort (Rate × Nat)
  | 0, x, r => .ok (x, r)
  | n + 1, x, r =>
    if x.int < cfg.fRmin ∧ r < cfg.rMax then do
      let x' ← doubleRate cfg x
      searchDivider cfg n x' (2 * r)
    else .ok (x, r)

/-- How many doublings bring r from 1 to `R_MAX` or above: log2 `R_MAX` rounded up, 5 in this block (R188; log 14). -/
def searchDoublings (cfg : Config) : Nat := Nat.log2 (2 * cfg.rMax - 1)

/-- The shrink loop (R186, R191): halves b and c while either exceeds `SHRINK_LIMIT`. The first argument bounds the passes. -/
def shrink (limit : Nat) : Nat → Nat → Nat → Nat × Nat
  | 0, b, c => (b, c)
  | n + 1, b, c => if limit < b ∨ limit < c then shrink limit n (b >>> 1) (c >>> 1) else (b, c)

/-- A bound on the passes of the shrink loop that no `SHRINK_LIMIT` reaches: b and c are below 2^`W_RATE`, so as many halvings
leave 0 (log 14). With R7's limit, "it runs at most 34 times (c < 2^64)" (R191). -/
def shrinkPasses (cfg : Config) : Nat := cfg.wRate

/-- A solution of the multisynth: integer part a, fraction b/c, divider r (10_state R29). -/
structure Multisynth where
  a : Nat
  b : Nat
  c : Nat
  r : Nat
  deriving DecidableEq, Repr

/-- The solving step of CALCMS (R186), from the rate after the doublings: steps 4, 5, 6, the zero rate, the range of a,
then the shrink. -/
def solveRate (cfg : Config) (x : Rate) (r : Nat) : Except Abort Multisynth := do
  let vn := cfg.fVco * x.den
  raiseIf (2 ^ cfg.wRate ≤ vn) .rangeError 2 4
  let t := x.int * x.den
  raiseIf (2 ^ cfg.wRate ≤ t) .rangeError 2 5
  let vd := t + x.num
  raiseIf (2 ^ cfg.wRate ≤ vd) .rangeError 2 6
  raiseIf (vd = 0) .rangeError 3 0
  let q ← reduceRate cfg ⟨0, vn, vd⟩
  raiseIf (q.int < cfg.aMin ∨ cfg.aMax < q.int) .rangeError 1 0
  let bc := shrink cfg.shrinkLimit (shrinkPasses cfg) q.num q.den
  pure ⟨q.int, bc.1, bc.2, r⟩

/-- `calculate_multisynth` (R186). -/
def calcMultisynth (cfg : Config) (dbl : BitVec 1) (x : Rate) : Except Abort Multisynth := do
  raiseIf (x.den = 0) .invalidState 3 0
  let x1 ← if dbl = 1 then doubleRate cfg x else .ok x
  let xr ← searchDivider cfg (searchDoublings cfg) x1 1
  solveRate cfg xr.1 xr.2

/-- CALCMS's four results. -/
def withMultisynth (m : Multisynth) (s : Block) : Block :=
  { s with msA := BitVec.ofNat 16 m.a, msB := BitVec.ofNat 32 m.b, msC := BitVec.ofNat 32 m.c, msR := BitVec.ofNat 8 m.r,
           unset := settle [.msA, .msB, .msC, .msR] s.unset }

/-- `CALCMS` (R186): the rate registers are not changed. -/
def calcmsCommand (cfg : Config) (s : Block) : Host.Outcome Block Fault Refusal :=
  finish s ((calcMultisynth cfg s.msDbl (rateOf s)).map (fun m => endNormally (withMultisynth m s)))

/-- `CALCMS` (R186) -/
def execCalcms (s : State) : Host.Outcome State Fault Refusal := onBlock (calcmsCommand Config.std) s

/-- The three hardware fields (R194). -/
structure Fields where
  p1 : Nat
  p2 : Nat
  p3 : Nat
  deriving DecidableEq, Repr

/-- The fields of a + b/c inside PACK's domain, or the exception (R196): a is tested first, then c, then b. -/
def packFields (cfg : Config) (a b c : Nat) : Except Abort Fields := do
  raiseIf (a < cfg.aMin ∨ cfg.aMax < a) .invalidState 4 0
  raiseIf (c = 0 ∨ 2 ^ cfg.p3Bits ≤ c) .invalidState 4 1
  raiseIf (c ≤ b) .invalidState 4 2
  let q := (128 * b) / c
  pure ⟨128 * a + q - 512, 128 * b - q * c, c⟩

/-- How many bytes the image has (10_state R33). -/
abbrev imageLen : Nat := 10

/-- The 10-byte image, byte 0 first (R195, R196): the fields lie end to end, p1 lowest, each least significant bit first. -/
def imageBytes (cfg : Config) (f : Fields) : List Byte :=
  let image := BitVec.ofNat cfg.p3Bits f.p3 ++ BitVec.ofNat cfg.p2Bits f.p2 ++ BitVec.ofNat cfg.p1Bits f.p1
  (List.range imageLen).map (fun j => image.extractLsb' (8 * j) 8)

/-- `MS_P1`, `MS_P2`, `MS_P3`. -/
def withFields (f : Fields) (s : Block) : Block :=
  { s with msP1 := BitVec.ofNat 32 f.p1, msP2 := BitVec.ofNat 32 f.p2, msP3 := BitVec.ofNat 32 f.p3,
           unset := settle [.msP1, .msP2, .msP3] s.unset }

/-- `PACK` (R196): the three fields and all ten bytes of `MSREG`. -/
def packCommand (cfg : Config) (s : Block) : Host.Outcome Block Fault Refusal :=
  finish s ((packFields cfg s.msA.toNat s.msB.toNat s.msC.toNat).map (fun f =>
    endNormally (storeBytes msregBase (imageBytes cfg f) (withFields f s))))

/-- `PACK` (R196) -/
def execPack (s : State) : Host.Outcome State Fault Refusal := onBlock (packCommand Config.std) s

/-- The three fields of an image (R195, R200); the bits above them (7:6 of byte 9) are ignored. -/
def imageFields (cfg : Config) (bs : List Byte) : Fields :=
  let image := BitVec.ofNat (8 * imageLen) (leValue bs)
  ⟨(image.extractLsb' 0 cfg.p1Bits).toNat, (image.extractLsb' cfg.p1Bits cfg.p2Bits).toNat,
   (image.extractLsb' (cfg.p1Bits + cfg.p2Bits) cfg.p3Bits).toNat⟩

/-- The fields of the image in buffer space: UNPACK reads all ten bytes (20_memory R68). -/
def fetchImage (cfg : Config) (m : Memory) : Except Abort Fields :=
  (fetchBytes m msregBase imageLen).map (imageFields cfg)

/-- The parameters an image stands for (R200): the inverse of R194, with floor division. -/
def unpackFields (f : Fields) : Except Abort (Nat × Nat × Nat) := do
  raiseIf (f.p3 = 0) .invalidState 5 0
  let t := f.p1 + 512
  let a := t >>> 7
  let q := t &&& 0x7F
  let c := f.p3
  let b := (q * c + f.p2) >>> 7
  pure (a, b, c)

/-- `MS_A`, `MS_B`, `MS_C` without `MS_R`. -/
def withDivider (abc : Nat × Nat × Nat) (s : Block) : Block :=
  { s with msA := BitVec.ofNat 16 abc.1, msB := BitVec.ofNat 32 abc.2.1, msC := BitVec.ofNat 32 abc.2.2,
           unset := settle [.msA, .msB, .msC] s.unset }

/-- `UNPACK` (R200): no range test of a, none of `b < c`. -/
def unpackCommand (cfg : Config) (s : Block) : Host.Outcome Block Fault Refusal :=
  finish s (do
    let f ← fetchImage cfg s.mem
    let abc ← unpackFields f
    pure (endNormally (withDivider abc (withFields f s))))

/-- `UNPACK` (R200) -/
def execUnpack (s : State) : Host.Outcome State Fault Refusal := onBlock (unpackCommand Config.std) s

/-- The base register address `MS_BASE0 + MS_STRIDE * index` (R205). -/
def baseAddress (cfg : Config) (idx : BitVec 8) : Except Abort Nat := do
  raiseIf (cfg.nMs ≤ idx.toNat) .invalidState 6 idx
  pure (cfg.msBase0 + cfg.msStride * idx.toNat)

/-- `MS_BASE`. -/
def withBase (base : Nat) (s : Block) : Block :=
  { s with msBase := BitVec.ofNat 8 base, unset := settle [.msBase] s.unset }

/-- `MSADDR` (R205) -/
def msaddrCommand (cfg : Config) (s : Block) : Host.Outcome Block Fault Refusal :=
  finish s ((baseAddress cfg s.msIdx).map (fun b => endNormally (withBase b s)))

/-- `MSADDR` (R205) -/
def execMsaddr (s : State) : Host.Outcome State Fault Refusal := onBlock (msaddrCommand Config.std) s

/-- The legal values of the r divider: the powers of two up to `R_MAX`, that is 1, 2, 4, 8, 16, 32 (R207). -/
def legalDividers (cfg : Config) : List Nat := (List.range (Nat.log2 cfg.rMax + 1)).map (fun n => 2 ^ n)

/-- The r-divider register byte `RREG_FIXED | (log2(r) << 2)` (R207). -/
def dividerByte (cfg : Config) (r : BitVec 8) : Except Abort Byte := do
  raiseIf (r.toNat ∉ legalDividers cfg) .invalidState 7 r
  pure (cfg.rregFixed ||| BitVec.ofNat 8 (Nat.log2 r.toNat <<< 2))

/-- `MS_RREG`. -/
def withRreg (b : Byte) (s : Block) : Block :=
  { s with msRreg := b, unset := settle [.msRreg] s.unset }

/-- `RENC` (R207) -/
def rencCommand (cfg : Config) (s : Block) : Host.Outcome Block Fault Refusal :=
  finish s ((dividerByte cfg s.msR).map (fun b => endNormally (withRreg b s)))

/-- `RENC` (R207) -/
def execRenc (s : State) : Host.Outcome State Fault Refusal := onBlock (rencCommand Config.std) s

end Sys2Proof.Machine
end

