-- ==== Sys2Proof/Machine/Parse.lean ====
section
/-! DEFINITION. The frame parse commands PARSE.8x8 to PARSE.32x32 (41_frame_parse R150 to R160). -/

namespace Sys2Proof.Machine

/-- What PARSE finds in a frame that passes its two tests. -/
structure Parsed where
  tid : Byte
  flags : Byte
  addr : Nat
  data : Nat
  deriving DecidableEq, Repr

/-- The frame in `RXF` parsed as class k, or the exception raised (R151): the magic is tested first, then the target.
It reads bytes 0, 1, 2 and the address and data bytes of the class, in that order, and no other byte (20_memory R68, R159). -/
def parseBytes (cfg : Config) (k : FrameClass) (m : Memory) (expected : Byte) : Except Abort Parsed := do
  let magic ← fetchByte m (rxfBase + 0)
  raiseIf (magic ≠ cfg.magic k) .protocolError 0 magic
  let tid ← fetchByte m (rxfBase + 1)
  raiseIf (cfg.checkTarget = true ∧ tid ≠ expected) .protocolError 1 tid
  let flags ← fetchByte m (rxfBase + 2)
  let addr ← fetchField cfg.fieldEndian m (rxfBase + 4) (cfg.na k)
  let data ← fetchField cfg.fieldEndian m (rxfBase + 4 + cfg.na k) (cfg.nd k)
  pure ⟨tid, flags, addr, data⟩

/-- The five result registers (10_state R27), address and data zero-extended (30_encoding R102). -/
def withParsed (p : Parsed) (s : Block) : Block :=
  { s with pTid := p.tid, pFlags := p.flags, pAddr := BitVec.ofNat 32 p.addr, pData := BitVec.ofNat 64 p.data,
           pSuccess := successFlag p.flags,
           unset := settle [.pTid, .pFlags, .pAddr, .pData, .pSuccess] s.unset }

/-- The success bit (R152): clear, PARSE completes and RECORDS OperationFailed without aborting; set, it ends normally. -/
def endParse (flags : Byte) (s : Block) : Block :=
  if successFlag flags = 0 then recordCause .operationFailed 2 flags s else endNormally s

/-- PARSE.k (R151). -/
def parseFrame (cfg : Config) (k : FrameClass) (s : Block) : Host.Outcome Block Fault Refusal :=
  finish s ((parseBytes cfg k s.mem s.fTid).map (fun p => endParse p.flags (withParsed p s)))

/-- `PARSE.8x8` (R153) -/
def execParse8x8 (s : State) : Host.Outcome State Fault Refusal := onBlock (parseFrame Config.std .c8x8) s

/-- `PARSE.8x16` (R154) -/
def execParse8x16 (s : State) : Host.Outcome State Fault Refusal := onBlock (parseFrame Config.std .c8x16) s

/-- `PARSE.8x32` (R155) -/
def execParse8x32 (s : State) : Host.Outcome State Fault Refusal := onBlock (parseFrame Config.std .c8x32) s

/-- `PARSE.8x64` (R156) -/
def execParse8x64 (s : State) : Host.Outcome State Fault Refusal := onBlock (parseFrame Config.std .c8x64) s

/-- `PARSE.16x64` (R157) -/
def execParse16x64 (s : State) : Host.Outcome State Fault Refusal := onBlock (parseFrame Config.std .c16x64) s

/-- `PARSE.32x32` (R158) -/
def execParse32x32 (s : State) : Host.Outcome State Fault Refusal := onBlock (parseFrame Config.std .c32x32) s

end Sys2Proof.Machine
end

