-- ==== Sys2Proof/Machine/System.lean ====
section
/-! DEFINITION. The system command CLRERR (44_system R226). -/

namespace Sys2Proof.Machine

/-- `CLRERR` (R226): the block's "return from trap" (60_exceptions R256). It cannot raise. -/
def execClrerr (s : State) : Host.Outcome State Fault Refusal := onBlock (fun b => .next (clearErrors b)) s

end Sys2Proof.Machine
end

