-- ==== Sys2Proof/Machine/Dispatch.lean ====
section
/-! DEFINITION. One arm per instruction, each a direct call of its meaning. -/

namespace Sys2Proof.Machine

def exec (i : Instr) (s : State) : Host.Outcome State Fault Refusal :=
  match i with
  | .clrerr => Sys2Proof.Machine.execClrerr s
  | .build8x8 => Sys2Proof.Machine.execBuild8x8 s
  | .build8x16 => Sys2Proof.Machine.execBuild8x16 s
  | .build8x32 => Sys2Proof.Machine.execBuild8x32 s
  | .build8x64 => Sys2Proof.Machine.execBuild8x64 s
  | .build16x64 => Sys2Proof.Machine.execBuild16x64 s
  | .build32x32 => Sys2Proof.Machine.execBuild32x32 s
  | .parse8x8 => Sys2Proof.Machine.execParse8x8 s
  | .parse8x16 => Sys2Proof.Machine.execParse8x16 s
  | .parse8x32 => Sys2Proof.Machine.execParse8x32 s
  | .parse8x64 => Sys2Proof.Machine.execParse8x64 s
  | .parse16x64 => Sys2Proof.Machine.execParse16x64 s
  | .parse32x32 => Sys2Proof.Machine.execParse32x32 s
  | .reduce => Sys2Proof.Machine.execReduce s
  | .double => Sys2Proof.Machine.execDouble s
  | .calcms => Sys2Proof.Machine.execCalcms s
  | .pack => Sys2Proof.Machine.execPack s
  | .unpack => Sys2Proof.Machine.execUnpack s
  | .msaddr => Sys2Proof.Machine.execMsaddr s
  | .renc => Sys2Proof.Machine.execRenc s
  | .frame8x8 target flags reserved addr data padding => Sys2Proof.Machine.execFrame8x8 target flags reserved addr data padding s
  | .frame8x16 target flags reserved addr data padding => Sys2Proof.Machine.execFrame8x16 target flags reserved addr data padding s
  | .frame8x32 target flags reserved addr data padding => Sys2Proof.Machine.execFrame8x32 target flags reserved addr data padding s
  | .frame8x64 target flags reserved addr data padding => Sys2Proof.Machine.execFrame8x64 target flags reserved addr data padding s
  | .frame16x64 target flags reserved addr data padding => Sys2Proof.Machine.execFrame16x64 target flags reserved addr data padding s
  | .frame32x32 target flags reserved addr data padding => Sys2Proof.Machine.execFrame32x32 target flags reserved addr data padding s

end Sys2Proof.Machine
end

