-- ==== Sys2Proof/Machine/HostPort.lean ====
section
/-! DEFINITION. The ports of the block: the host's register and buffer accesses (44_system R220 to R225), the command port
(10_state R22, 30_encoding R103), the transport's two actions (R228), and the reset input (70_reset R280). Each is a function of
the block and the parameters alone, and says how the block answers the action; which instruction an answer starts is run in
Relation.lean. -/

namespace Sys2Proof.Machine

/-- How the block answers an action. -/
inductive Response where
  /-- the action is complete with this block -/
  | done (b : Block)
  /-- the action is complete with this block, and hands something to the outside -/
  | handed (o : Observation) (b : Block)
  /-- the action starts an instruction, which runs at once, in the same action (10_state R22, 20_memory R69) -/
  | starts (i : Instr)
  /-- the action reads a buffer byte nothing has written (10_state R37; log 2) -/
  | stops (r : Fault)
  deriving DecidableEq, Repr

/-- A faulting host register access: InvalidState sub-code 8, the register number modulo 256 (R222). -/
def badRegister (i : Nat) (b : Block) : Block := recordCause .invalidState 8 (BitVec.ofNat 8 i) b

/-- A faulting host buffer access: InvalidState sub-code 9, the address modulo 256 (R224). -/
def badAddress (a : Nat) (b : Block) : Block := recordCause .invalidState 9 (BitVec.ofNat 8 a) b

/-- The command port (R22): the byte is an opcode and its command runs at once, or InvalidState sub-code 1 (R103). -/
def commandByte (cfg : Config) (c : Byte) (b : Block) : Response :=
  match cfg.decodeCommand c with
  | .ok i => .starts i
  | .error _ => .done (recordCause .invalidState 1 c b)

/-- `wr REG, v` (R221): the number is tested, then read-only, then the value's width, then (for `CMD`) the opcode (R254). -/
def hostWrite (cfg : Config) (i v : Nat) (b : Block) : Response :=
  match regOf i with
  | none => .done (badRegister i b)
  | some r =>
    if regAccess r = .readOnly then .done (badRegister i b)
    else if 2 ^ regWidth cfg r ≤ v then .done (badRegister i b)
    else if r = .cmd then commandByte cfg (BitVec.ofNat 8 v) b
    else .done (writeReg r v b)

/-- `rd REG` (R220): changes no state of the block unless it faults; a faulting read hands 0 to the host (R222). -/
def hostRead (i : Nat) (b : Block) : Response :=
  match regOf i with
  | none => .handed (.hostReceived 0) (badRegister i b)
  | some r => .handed (.hostReceived (readReg r b)) b

/-- `stb a, v` (R225): a byte of all 42 is writable; a bad address or a value above 0xFF faults (R224). -/
def hostStore (a v : Nat) (b : Block) : Response :=
  if bufSize ≤ a ∨ 256 ≤ v then .done (badAddress a b)
  else .done (storeBytes a [BitVec.ofNat 8 v] b)

/-- A port's read of buffer space hands out what it reads and changes no state of the block; a byte nothing has written stops the
model (R37; log 2). -/
def handOut (b : Block) : Except Abort Observation → Response
  | .ok o => .handed o b
  | .error (.raise c sub val) => .done (recordCause c sub val b)
  | .error (.unwritten a) => .stops (.unwrittenByte a)

/-- `ldb a` (R223): a bad address hands 0 to the host and faults (R224). -/
def hostLoad (a : Nat) (b : Block) : Response :=
  if bufSize ≤ a then .handed (.hostReceived 0) (badAddress a b)
  else handOut b ((fetchByte b.mem a).map (fun v => .hostReceived (v.setWidth 64)))

/-- `take` (R228): the transport reads the bytes of `TXF` in one action; it changes no state of the block. -/
def transportTake (cfg : Config) (b : Block) : Response :=
  handOut b ((fetchBytes b.mem txfBase cfg.frameLen).map (fun bs => .requestLeft (frameOfBytes bs)))

/-- `deliver` (R228): the frame is fetched at the transport port. A frame with a class's magic is that frame row of the table;
any other bytes are delivered just the same, since no rule constrains them (U3). -/
def transportDeliver (cfg : Config) (f : Frame) (b : Block) : Response :=
  match cfg.decodeFrame f with
  | .ok i => .starts i
  | .error _ => .done (deliverFrame cfg f b)

/-- The reset input (R280): the error registers become 0, every other register and every buffer byte becomes unspecified,
"including those that held values before the reset". A register then holds a free value, a new one at every action until
something writes it (R37; log 3); a buffer byte holds none (log 2). -/
def resetBlock (cfg : Config) (b : Block) : Block :=
  refresh cfg { b with lastErr := 0, errs := 0, errInfo := 0, mem := [], unset := dataRegs }

/-- How the block answers each action. -/
def respond (cfg : Config) (a : Action) (b : Block) : Response :=
  match a with
  | .wr i v => hostWrite cfg i v b
  | .rd i => hostRead i b
  | .stb x v => hostStore x v b
  | .ldb x => hostLoad x b
  | .take => transportTake cfg b
  | .deliver f => transportDeliver cfg f b
  | .reset => .done (resetBlock cfg b)

end Sys2Proof.Machine
end

