-- ==== Sys2Proof/Machine/Relation.lean ====
section
/-! DEFINITION. The step relation, twice. `blockAct` is the relation of 10_state R35: its state is the block of R34, and the
parameters of R7, the host's operation and the bytes the transport delivers are its arguments. `act` is the same relation on
`State`, with the parameters of this block and `exec` for the instructions; `act_eq_blockAct` (Laws/Relation.lean) says that the
two agree. An action is performed as a whole (20_memory R69). -/

namespace Sys2Proof.Machine

/-- What an instruction does to the block, for every value of the parameters (R7, R35). With `Config.std` it is `exec`
(`exec_eq_execIn`, Laws/Relation.lean): both call the same commands. -/
def execIn (cfg : Config) (i : Instr) (b : Block) : Host.Outcome Block Fault Refusal :=
  match i with
  | .clrerr => .next (clearErrors b)
  | .build8x8 => buildFrame cfg .c8x8 b
  | .build8x16 => buildFrame cfg .c8x16 b
  | .build8x32 => buildFrame cfg .c8x32 b
  | .build8x64 => buildFrame cfg .c8x64 b
  | .build16x64 => buildFrame cfg .c16x64 b
  | .build32x32 => buildFrame cfg .c32x32 b
  | .parse8x8 => parseFrame cfg .c8x8 b
  | .parse8x16 => parseFrame cfg .c8x16 b
  | .parse8x32 => parseFrame cfg .c8x32 b
  | .parse8x64 => parseFrame cfg .c8x64 b
  | .parse16x64 => parseFrame cfg .c16x64 b
  | .parse32x32 => parseFrame cfg .c32x32 b
  | .reduce => reduceCommand cfg b
  | .double => doubleCommand cfg b
  | .calcms => calcmsCommand cfg b
  | .pack => packCommand cfg b
  | .unpack => unpackCommand cfg b
  | .msaddr => msaddrCommand cfg b
  | .renc => rencCommand cfg b
  | .frame8x8 t f r a d p => deliverRow cfg (.frame8x8 t f r a d p) b
  | .frame8x16 t f r a d p => deliverRow cfg (.frame8x16 t f r a d p) b
  | .frame8x32 t f r a d p => deliverRow cfg (.frame8x32 t f r a d p) b
  | .frame8x64 t f r a d p => deliverRow cfg (.frame8x64 t f r a d p) b
  | .frame16x64 t f r a d p => deliverRow cfg (.frame16x64 t f r a d p) b
  | .frame32x32 t f r a d p => deliverRow cfg (.frame32x32 t f r a d p) b

/-- One action on the block, from start to end (R35, R69): the block after it, and what it handed to the outside. -/
def blockAct (cfg : Config) (a : Action) (b : Block) : Host.Outcome (Block × Option Observation) Fault Refusal :=
  match respond cfg a b with
  | .done b' => .next (b', none)
  | .handed o b' => .next (b', some o)
  | .starts i =>
    match execIn cfg i b with
    | .next b' => .next (b', none)
    | .fault r => .fault r
    | .refused r => .refused r
  | .stops r => .fault r

/-- The step relation of R35: an action in its turn of the total order (20_memory R75). Before it the registers that hold no
specified value have taken new free values (R37; log 3). -/
def blockTurn (cfg : Config) (a : Action) (b : Block) : Host.Outcome (Block × Option Observation) Fault Refusal :=
  blockAct cfg a (refresh cfg b)

/-- One action, from start to end (R69, R75), in a state with the outside world beside the block. -/
def act (a : Action) (s : State) : Host.Outcome State Fault Refusal :=
  match respond Config.std a s.toBlock with
  | .done b => .next { s with toBlock := b }
  | .handed o b => .next (observe o { s with toBlock := b })
  | .starts i => exec i s
  | .stops r => .fault r

/-- The state as the next action finds it: the registers that hold no specified value have taken new free values (R37; log 3).
With every register written it is the state itself. -/
def refreshed (s : State) : State := s.mapBlock (refresh Config.std)

/-- An action in its turn of the total order (R75). -/
def turn (a : Action) (s : State) : Host.Outcome State Fault Refusal := act a (refreshed s)

/-- The next action of the total order (R75), or none: between actions nothing changes (R70). -/
def nextAction (s : State) : Host.Outcome State Fault Refusal :=
  match s.pending with
  | [] => .next s
  | a :: rest => turn a { s with pending := rest }

/-- The action that presents the bytes of an instruction at the block: a frame is delivered by the transport,
a command byte is written to `CMD` by the host (log 4, 7). -/
def presentBytes (bs : List Byte) : Action :=
  match classOfMagic (bs.headD 0) with
  | some _ => .deliver (frameOfBytes (bs.take frameLen))
  | none => .wr 0 (bs.headD 0).toNat

end Sys2Proof.Machine
end

