-- ==== Sys2Proof/Machine/Step.lean ====
section
/-! DEFINITION. The step, and how a program is presented to it (log 4). -/

namespace Sys2Proof.Machine

/-- One step: the next pending action is performed as a whole (20_memory R69, R75). -/
def step (s : State) : Host.Outcome State Fault Refusal := nextAction s

/-- The state with one instruction of the opcode table as the next thing the block is given: a command byte is the next write
to `CMD`, a frame the next delivery. Bits from nbits on are zero. Nothing else changes. -/
def State.withFetchWord (s : State) (nbits w : Nat) : State :=
  { s with pending := presentBytes (tableBytes nbits w) :: s.pending }

end Sys2Proof.Machine
end

