-- ==== Sys2Proof/Machine/Pseudo.lean ====
section
/-! DEFINITION. The pseudo-instructions (30_encoding R110 to R115): fixed sequences of actions, and the host's decision after
reading `LAST_ERR`. "The block knows nothing of them". Each action is performed in its turn (R75; log 16). Also the command sequence of 43_multisynth R208. -/

namespace Sys2Proof.Machine

/-- What follows an outcome that goes on. -/
def andThen {α β : Type} (o : Host.Outcome α Fault Refusal) (f : α → Host.Outcome β Fault Refusal) :
    Host.Outcome β Fault Refusal :=
  match o with
  | .next a => f a
  | .fault r => .fault r
  | .refused r => .refused r

/-- A finite list of actions performed in order: a program, whose end is the state after the last one (44_system R229). -/
def perform : List Action → State → Host.Outcome State Fault Refusal
  | [], s => .next s
  | a :: rest, s => andThen (turn a s) (perform rest)

/-- `cmd MNEMONIC`: exactly `wr CMD, opcode(MNEMONIC)` (R108). -/
def command (i : Instr) : Action := .wr 0 (leValue (encode i))

/-- BUILD.k and PARSE.k by class index (R109). -/
def buildInstr : FrameClass → Instr
  | .c8x8 => .build8x8
  | .c8x16 => .build8x16
  | .c8x32 => .build8x32
  | .c8x64 => .build8x64
  | .c16x64 => .build16x64
  | .c32x32 => .build32x32

def parseInstr : FrameClass → Instr
  | .c8x8 => .parse8x8
  | .c8x16 => .parse8x16
  | .c8x32 => .parse8x32
  | .c8x64 => .parse8x64
  | .c16x64 => .parse16x64
  | .c32x32 => .parse32x32

/-- `loopback` (R111), 32 host operations: `v <- ldb 0x00+i; stb 0x10+i, v` for i = 0..15.
The value of the `stb` is the one the host received at the `ldb` before it. -/
def loopbackFrom : Nat → Nat → State → Host.Outcome State Fault Refusal
  | 0, _, s => .next s
  | n + 1, i, s =>
    andThen (turn (.ldb (txfBase + i)) s) (fun s1 =>
      match s1.seen with
      | .hostReceived v :: _ => andThen (turn (.stb (rxfBase + i) v.toNat) s1) (loopbackFrom n (i + 1))
      | _ => .next s1)

def loopback (s : State) : Host.Outcome State Fault Refusal := loopbackFrom 16 0 s

/-- `exchange` (R115): the request leaves and, later, the response is delivered. -/
def exchange (response : Frame) : List Action := [.take, .deliver response]

/-- How a facade call ends for the host (R110, R112): with the value read from `P_DATA`, or with the cause it stops with. -/
inductive FacadeResult where
  | value (v : BitVec 64)
  | stopped (cause : BitVec 3)
  deriving DecidableEq, Repr

/-- The request half of a facade call: the four operands and BUILD.k (R112). -/
def request (k : FrameClass) (t flags a d : Nat) : List Action :=
  [.wr 4 t, .wr 5 flags, .wr 6 a, .wr 7 d, command (buildInstr k)]

/-- The response half: PARSE.k, `rd LAST_ERR`, and `rd P_DATA` when it is 0 (R112). -/
def collect (k : FrameClass) (s : State) : Host.Outcome (FacadeResult × State) Fault Refusal :=
  andThen (perform [command (parseInstr k), .rd 1] s) (fun s1 =>
    if s1.lastErr = 0 then
      andThen (turn (.rd 11) s1) (fun s2 => .next (.value s2.pData, s2))
    else .next (.stopped s1.lastErr, s1))

/-- One facade call. The transport answers with any frame, or fails: then there is no delivery, the host stops with
TransportError and never issues PARSE (R112, 60_exceptions R241). -/
def facadeCall (k : FrameClass) (t flags a d : Nat) (response : Option Frame) (s : State) :
    Host.Outcome (FacadeResult × State) Fault Refusal :=
  andThen (perform (request k t flags a d ++ [.take]) s) (fun s1 =>
    match response with
    | none => .next (.stopped (causeCode .transportError), s1)
    | some f => andThen (turn (.deliver f) s1) (collect k))

/-- `read.k t, a` (R112). -/
def facadeRead (k : FrameClass) (t a : Nat) (response : Option Frame) (s : State) :
    Host.Outcome (FacadeResult × State) Fault Refusal :=
  facadeCall k t 0x00 a 0 response s

/-- `write.k t, a, d` (R113). -/
def facadeWrite (k : FrameClass) (t a d : Nat) (response : Option Frame) (s : State) :
    Host.Outcome (FacadeResult × State) Fault Refusal :=
  facadeCall k t 0x01 a d response s

/-- `set.k t, a, m` (R114): "read-modify-write built from two sequential round trips", NOT atomic: two exchanges. -/
def facadeSet (k : FrameClass) (t a m : Nat) (response1 response2 : Option Frame) (s : State) :
    Host.Outcome (FacadeResult × State) Fault Refusal :=
  andThen (facadeRead k t a response1 s) (fun r =>
    match r.1 with
    | .value v => facadeWrite k t a (v.toNat ||| m) response2 r.2
    | .stopped c => .next (.stopped c, r.2))

/-- The commands the host issues for `set_rational_multisynth` (43_multisynth R208), before the facade writes. -/
def multisynthCommands : List Action :=
  [command .reduce, command .msaddr, command .calcms, command .pack, command .renc]

end Sys2Proof.Machine
end

