-- ==== Sys2Proof/Safety.lean ====
section
/-! DEFINITION. What counts as a safe run, in the terms claims use: the invariant of the block's state, and the host's and
transport's duties (70_reset R290 to R292), which the block does not enforce. -/

namespace Sys2Proof.Machine

/-- The block's invariant: buffer space in canonical form (20_memory R61); `LAST_ERR` holds only a code the block writes
(10_state R23); `ERRS` bits 0, 1, 5 and 7 are 0 (R24, 60_exceptions R241); a cause in `LAST_ERR` has its sticky bit (R250);
only registers that R36 calls unspecified can be without a specified value, each listed once (log 3). -/
structure Inv (s : State) : Prop where
  memory : Memory.wf s.mem = true
  legalCause : s.lastErr = 0 ∨ s.lastErr = 2 ∨ s.lastErr = 3 ∨ s.lastErr = 4 ∨ s.lastErr = 6
  hardwired : s.errs &&& 0xA3#8 = 0
  sticky : s.lastErr ≠ 0 → s.errs.getLsbD s.lastErr.toNat = true
  unsetData : s.unset.Sublist dataRegs

/-- An action is a write of the opcode of an instruction to `CMD`. -/
def Action.isCommand (i : Instr) (a : Action) : Bool := decide (a = command i)

/-- An action starts some BUILD, or some PARSE. -/
def Action.isBuild (a : Action) : Bool :=
  allClasses.any (fun k => Action.isCommand (buildInstr k) a)

def Action.isParse (a : Action) : Bool :=
  allClasses.any (fun k => Action.isCommand (parseInstr k) a)

/-- One exchange in flight, and PARSE only after the delivery (R290, R291): between a `take` and the `deliver` that answers it
there is no second `take` and no PARSE. The first argument says whether an exchange is in flight.
MODEL'S CHOICE (DESIGN CHOICE; log 16): R290 speaks only of the `deliver` that answers a `take`, so it leaves open when an exchange
that failed stops being in flight. Here it never does: a `take` after one that no `deliver` answered is undisciplined, the one of
R258's cleanup among them, and a reset between the two does not end it either.
MODEL'S CHOICE (DESIGN CHOICE; log 16): R290 forbids a BUILD followed by a `take` in that span, and 20_memory R76, which refers to
R290, says "not to BUILD between an exchange's two halves". Here the `take` is what breaks the duty: a BUILD alone, with no second
`take` before the `deliver`, is disciplined. -/
def disciplined : Bool → List Action → Bool
  | _, [] => true
  | inFlight, .take :: rest => !inFlight && disciplined true rest
  | _, .deliver _ :: rest => disciplined false rest
  | inFlight, a :: rest => !(inFlight && Action.isParse a) && disciplined inFlight rest

/-- Keep `F_TID` from BUILD to PARSE (R292): no write of register 4 between them.
The first argument says whether a BUILD awaits its PARSE.
MODEL'S CHOICE (DESIGN CHOICE; log 16): R292 says "from BUILD to PARSE" and leaves open until when `F_TID` is to be kept after a
BUILD that is never parsed (it raised, or its exchange failed). Here it is kept until some PARSE.
MODEL'S CHOICE (DESIGN CHOICE; log 16): the spec does not say what a reset in that span does. Here it ends the span: `F_TID` is
lost with it (70_reset R280), and the host has to write it again before it counts on it (R283). -/
def keepsTarget : Bool → List Action → Bool
  | _, [] => true
  | held, a :: rest =>
    match a with
    | .wr 4 _ => !held && keepsTarget held rest
    | .reset => keepsTarget false rest
    | _ => keepsTarget ((held || Action.isBuild a) && !Action.isParse a) rest

/-- Which causes, with which sub-codes, a command can end with (60_exceptions R242, R243). -/
def allowedCauses : Instr → List (Cause × Byte)
  | .clrerr => []
  | .build8x8 | .build8x16 | .build8x32 | .build8x64 | .build16x64 | .build32x32 => [(.invalidState, 2)]
  | .parse8x8 | .parse8x16 | .parse8x32 | .parse8x64 | .parse16x64 | .parse32x32 =>
    [(.protocolError, 0), (.protocolError, 1), (.operationFailed, 2)]
  | .reduce | .double => [(.rangeError, 2), (.invalidState, 3)]
  | .calcms => [(.rangeError, 1), (.rangeError, 2), (.rangeError, 3), (.invalidState, 3)]
  | .pack => [(.invalidState, 4)]
  | .unpack => [(.invalidState, 5)]
  | .msaddr => [(.invalidState, 6)]
  | .renc => [(.invalidState, 7)]
  | .frame8x8 .. | .frame8x16 .. | .frame8x32 .. | .frame8x64 .. | .frame16x64 .. | .frame32x32 .. => []

/-- A run of n steps stops nowhere. -/
def SafeRun (n : Nat) (s : State) : Prop := ∃ t, Host.Core.run Sys2Proof.core n s = .next t

end Sys2Proof.Machine
end

