-- ==== Sys2Proof/Certificates/Slice0/Obligations.lean ====
section
/-! DEFINITION. The statements for the provers. Each docstring names the rule of spec/ it formalises, or says what it is derived from. -/

open Sys2Proof Sys2Proof.Machine

/-- Decoding an encoded instruction gives it back, whatever follows. Derived from R93, R94, R95, R96, R97, R98, R99, R100, R116. -/
def Obligations.DecodeInvertsEncode : Prop :=
  ∀ (i : Instr) (rest : List Byte), decode (encode i ++ rest) = .ok (i, rest)

/-- Whatever decodes is the encoding of what it decodes to. Derived from R93, R100, R103, R105, R116. -/
def Obligations.EncodeInvertsDecode : Prop :=
  ∀ (bs rest : List Byte) (i : Instr), decode bs = .ok (i, rest) → encode i ++ rest = bs

/-- The six frame formats place their fields byte by byte. Formalises R94, R95, R96, R97, R98, R99. -/
def Obligations.FrameFormatsPlaceFields : Prop :=
  (∀ (t f a d : Byte), encode (.frame8x8 t f 0 a d 0) = [0x41, t, f, 0, a, d, 0, 0, 0, 0, 0, 0, 0, 0, 0, 0]) ∧
  (∀ (t f a : Byte) (d : BitVec 16), encode (.frame8x16 t f 0 a d 0) =
    [0x42, t, f, 0, a, d.extractLsb' 0 8, d.extractLsb' 8 8, 0, 0, 0, 0, 0, 0, 0, 0, 0]) ∧
  (∀ (t f a : Byte) (d : BitVec 32), encode (.frame8x32 t f 0 a d 0) =
    [0x43, t, f, 0, a, d.extractLsb' 0 8, d.extractLsb' 8 8, d.extractLsb' 16 8, d.extractLsb' 24 8,
     0, 0, 0, 0, 0, 0, 0]) ∧
  (∀ (t f a : Byte) (d : BitVec 64), encode (.frame8x64 t f 0 a d 0) =
    [0x44, t, f, 0, a, d.extractLsb' 0 8, d.extractLsb' 8 8, d.extractLsb' 16 8, d.extractLsb' 24 8,
     d.extractLsb' 32 8, d.extractLsb' 40 8, d.extractLsb' 48 8, d.extractLsb' 56 8, 0, 0, 0]) ∧
  (∀ (t f : Byte) (a : BitVec 16) (d : BitVec 64), encode (.frame16x64 t f 0 a d 0) =
    [0x45, t, f, 0, a.extractLsb' 0 8, a.extractLsb' 8 8, d.extractLsb' 0 8, d.extractLsb' 8 8, d.extractLsb' 16 8,
     d.extractLsb' 24 8, d.extractLsb' 32 8, d.extractLsb' 40 8, d.extractLsb' 48 8, d.extractLsb' 56 8, 0, 0]) ∧
  (∀ (t f : Byte) (a d : BitVec 32), encode (.frame32x32 t f 0 a d 0) =
    [0x4B, t, f, 0, a.extractLsb' 0 8, a.extractLsb' 8 8, a.extractLsb' 16 8, a.extractLsb' 24 8,
     d.extractLsb' 0 8, d.extractLsb' 8 8, d.extractLsb' 16 8, d.extractLsb' 24 8, 0, 0, 0, 0]) ∧
  (∀ v : Frame, v.extractLsb' 0 8 = 0x41 → decodeFrame v = .ok (.frame8x8 (v.extractLsb' 8 8) (v.extractLsb' 16 8)
    (v.extractLsb' 24 8) (v.extractLsb' 32 8) (v.extractLsb' 40 8) (v.extractLsb' 48 80))) ∧
  (∀ v : Frame, v.extractLsb' 0 8 = 0x42 → decodeFrame v = .ok (.frame8x16 (v.extractLsb' 8 8) (v.extractLsb' 16 8)
    (v.extractLsb' 24 8) (v.extractLsb' 32 8) (v.extractLsb' 40 16) (v.extractLsb' 56 72))) ∧
  (∀ v : Frame, v.extractLsb' 0 8 = 0x43 → decodeFrame v = .ok (.frame8x32 (v.extractLsb' 8 8) (v.extractLsb' 16 8)
    (v.extractLsb' 24 8) (v.extractLsb' 32 8) (v.extractLsb' 40 32) (v.extractLsb' 72 56))) ∧
  (∀ v : Frame, v.extractLsb' 0 8 = 0x44 → decodeFrame v = .ok (.frame8x64 (v.extractLsb' 8 8) (v.extractLsb' 16 8)
    (v.extractLsb' 24 8) (v.extractLsb' 32 8) (v.extractLsb' 40 64) (v.extractLsb' 104 24))) ∧
  (∀ v : Frame, v.extractLsb' 0 8 = 0x45 → decodeFrame v = .ok (.frame16x64 (v.extractLsb' 8 8) (v.extractLsb' 16 8)
    (v.extractLsb' 24 8) (v.extractLsb' 32 16) (v.extractLsb' 48 64) (v.extractLsb' 112 16))) ∧
  (∀ v : Frame, v.extractLsb' 0 8 = 0x4B → decodeFrame v = .ok (.frame32x32 (v.extractLsb' 8 8) (v.extractLsb' 16 8)
    (v.extractLsb' 24 8) (v.extractLsb' 32 32) (v.extractLsb' 64 32) (v.extractLsb' 96 32)))

/-- Command bytes and a frame written out from the tables decode as the tables say. Derived from R100, R94. -/
def Obligations.CommandWordsDecode : Prop :=
  decodeCommand 0b00000001 = .ok .clrerr ∧ decodeCommand 0b00010100 = .ok .build16x64 ∧
  decodeCommand 0b00100011 = .ok .parse8x64 ∧ decodeCommand 0b00110010 = .ok .calcms ∧
  decodeCommand 0b00110110 = .ok .renc ∧
  decode [0x41, 0x00, 0x01, 0x00, 0x45, 0x0B, 0, 0, 0, 0, 0, 0, 0, 0, 0, 0] = .ok (.frame8x8 0x00 0x01 0x00 0x45 0x0B 0, [])

/-- A byte that is no opcode, written to CMD, raises InvalidState sub-code 1 and does nothing else. Formalises R103. -/
def Obligations.IllegalCommandByteRaises : Prop :=
  ∀ (s : State) (v : Nat), v < 256 →
    v ∉ [0x01, 0x10, 0x11, 0x12, 0x13, 0x14, 0x15, 0x20, 0x21, 0x22, 0x23, 0x24, 0x25,
      0x30, 0x31, 0x32, 0x33, 0x34, 0x35, 0x36] →
    act (.wr 0 v) s = .next { s with lastErr := 6, errs := s.errs ||| 0x40, errInfo := 0x01#8 ++ BitVec.ofNat 8 v }

/-- A step performs the next pending action, and runs the instruction that the bytes presented decode to (the model's choices,
log 3, 4, 6, 7). Derived from R22, R228, R75, R70, R37. The model's choice in every clause: what is to be done is a list of
actions and an empty list idles (log 4), unspecified registers are drawn anew (log 3), a delivered frame runs exec of its row
(log 6), and one decoder reads both ports (log 7). -/
def Obligations.StepRunsTheDecodedInstruction : Prop :=
  (∀ (s : State) (v : Nat) (rest : List Action) (i : Instr), s.pending = .wr 0 v :: rest → v < 256 →
    decode [BitVec.ofNat 8 v] = .ok (i, []) → step s = exec i (refreshed { s with pending := rest })) ∧
  (∀ (s : State) (f : Frame) (rest : List Action) (i : Instr), s.pending = .deliver f :: rest →
    decode (frameBytes f) = .ok (i, []) → step s = exec i (refreshed { s with pending := rest })) ∧
  (∀ s : State, s.pending = [] → step s = .next s) ∧
  (∀ (s : State) (a : Action) (rest : List Action), s.pending = a :: rest →
    step s = act a (refreshed { s with pending := rest })) ∧
  (∀ s : State, s.unset = [] → refreshed s = s)

/-- deliver writes exactly the sixteen bytes it is given to RXF, for every frame, and nothing else. Derived from R228, R93. -/
def Obligations.DeliverWritesEveryFrame : Prop :=
  ∀ (s : State) (f : Frame), ∃ t, act (.deliver f) s = .next t ∧
    (∀ i, i < 16 → Memory.read t.mem (0x10 + i) = some (f.extractLsb' (8 * i) 8)) ∧
    (∀ a, a < 0x10 ∨ 0x20 ≤ a → Memory.read t.mem a = Memory.read s.mem a) ∧
    t = { s with mem := t.mem }

/-- Each frame row of the table completes by delivering its sixteen bytes to RXF (the model's choice, log 6). Derived from R116,
R228. -/
def Obligations.FrameRowsAreDelivered : Prop :=
  (∀ (s : State) (t f r a d : Byte) (p : BitVec 80), exec (.frame8x8 t f r a d p) s =
    .next { s with mem := Memory.writeBytes s.mem 0x10 (encode (.frame8x8 t f r a d p)) }) ∧
  (∀ (s : State) (t f r a : Byte) (d : BitVec 16) (p : BitVec 72), exec (.frame8x16 t f r a d p) s =
    .next { s with mem := Memory.writeBytes s.mem 0x10 (encode (.frame8x16 t f r a d p)) }) ∧
  (∀ (s : State) (t f r a : Byte) (d : BitVec 32) (p : BitVec 56), exec (.frame8x32 t f r a d p) s =
    .next { s with mem := Memory.writeBytes s.mem 0x10 (encode (.frame8x32 t f r a d p)) }) ∧
  (∀ (s : State) (t f r a : Byte) (d : BitVec 64) (p : BitVec 24), exec (.frame8x64 t f r a d p) s =
    .next { s with mem := Memory.writeBytes s.mem 0x10 (encode (.frame8x64 t f r a d p)) }) ∧
  (∀ (s : State) (t f r : Byte) (a : BitVec 16) (d : BitVec 64) (p : BitVec 16), exec (.frame16x64 t f r a d p) s =
    .next { s with mem := Memory.writeBytes s.mem 0x10 (encode (.frame16x64 t f r a d p)) }) ∧
  (∀ (s : State) (t f r : Byte) (a d p : BitVec 32), exec (.frame32x32 t f r a d p) s =
    .next { s with mem := Memory.writeBytes s.mem 0x10 (encode (.frame32x32 t f r a d p)) })

/-- The 27 host registers: numbers, widths and access rights; numbers from 27 on do not exist. Derived from R21. -/
def Obligations.RegisterMap : Prop :=
  regList.map regNumber = List.range 27 ∧
  regList.map (regWidth Config.std) = [8, 3, 8, 16, 8, 8, 32, 64, 8, 8, 32, 64, 1, 64, 64, 64, 8, 1, 16, 32, 32, 8, 32, 32, 32, 8, 8] ∧
  regList.map regAccess = [.writeOnly, .readOnly, .readOnly, .readOnly, .readWrite, .readWrite, .readWrite, .readWrite,
    .readOnly, .readOnly, .readOnly, .readOnly, .readOnly, .readWrite, .readWrite, .readWrite, .readWrite, .readWrite,
    .readWrite, .readWrite, .readWrite, .readWrite, .readOnly, .readOnly, .readOnly, .readOnly, .readOnly] ∧
  (∀ r, regOf (regNumber r) = some r) ∧ (∀ i, 27 ≤ i → regOf i = none)

/-- A good wr to a writable register other than CMD sets that register and nothing else. Derived from R221, R21. `unset` is the
model's record of which registers hold no specified value (log 3, after R37's last sentence): a register written is taken off
it. -/
def Obligations.HostWriteChangesThatRegisterOnly : Prop :=
  ∀ (s : State) (i v : Nat) (r : Reg), regOf i = some r → (4 ≤ i ∧ i ≤ 7) ∨ (13 ≤ i ∧ i ≤ 21) → v < 2 ^ regWidth Config.std r →
    ∃ t, act (.wr i v) s = .next t ∧ readReg r t.toBlock = BitVec.ofNat 64 v ∧
      (∀ r', r' ≠ r → readReg r' t.toBlock = readReg r' s.toBlock) ∧
      t.mem = s.mem ∧ t.pending = s.pending ∧ t.seen = s.seen ∧ t.unset = settle [r] s.unset ∧ t.draws = s.draws

/-- A register number above 26, a write to a read-only register and a value that does not fit each raise InvalidState sub-code 8.
Formalises R222. -/
def Obligations.BadRegisterAccessRaises : Prop :=
  (∀ (s : State) (i v : Nat), 26 < i ∨ i ∈ [1, 2, 3, 8, 9, 10, 11, 12, 22, 23, 24, 25, 26] ∨
      (∃ r, regOf i = some r ∧ 2 ^ regWidth Config.std r ≤ v) →
    act (.wr i v) s = .next { s with lastErr := 6, errs := s.errs ||| 0x40, errInfo := 0x08#8 ++ BitVec.ofNat 8 (i % 256) }) ∧
  (∀ (s : State) (i : Nat), 26 < i →
    act (.rd i) s = .next { s with lastErr := 6, errs := s.errs ||| 0x40, errInfo := 0x08#8 ++ BitVec.ofNat 8 (i % 256),
                                   seen := .hostReceived 0 :: s.seen })

/-- rd hands the register's value to the host and changes nothing; CMD reads 0. Derived from R220, R22, R21. -/
def Obligations.HostReadHandsOutTheRegister : Prop :=
  (∀ s : State, act (.rd 0) s = .next { s with seen := .hostReceived 0 :: s.seen }) ∧
  (∀ s : State, act (.rd 1) s = .next { s with seen := .hostReceived (s.lastErr.setWidth 64) :: s.seen }) ∧
  (∀ s : State, act (.rd 2) s = .next { s with seen := .hostReceived (s.errs.setWidth 64) :: s.seen }) ∧
  (∀ s : State, act (.rd 3) s = .next { s with seen := .hostReceived (s.errInfo.setWidth 64) :: s.seen }) ∧
  (∀ s : State, act (.rd 4) s = .next { s with seen := .hostReceived (s.fTid.setWidth 64) :: s.seen }) ∧
  (∀ s : State, act (.rd 5) s = .next { s with seen := .hostReceived (s.fFlags.setWidth 64) :: s.seen }) ∧
  (∀ s : State, act (.rd 6) s = .next { s with seen := .hostReceived (s.fAddr.setWidth 64) :: s.seen }) ∧
  (∀ s : State, act (.rd 7) s = .next { s with seen := .hostReceived s.fData :: s.seen }) ∧
  (∀ s : State, act (.rd 8) s = .next { s with seen := .hostReceived (s.pTid.setWidth 64) :: s.seen }) ∧
  (∀ s : State, act (.rd 9) s = .next { s with seen := .hostReceived (s.pFlags.setWidth 64) :: s.seen }) ∧
  (∀ s : State, act (.rd 10) s = .next { s with seen := .hostReceived (s.pAddr.setWidth 64) :: s.seen }) ∧
  (∀ s : State, act (.rd 11) s = .next { s with seen := .hostReceived s.pData :: s.seen }) ∧
  (∀ s : State, act (.rd 12) s = .next { s with seen := .hostReceived (s.pSuccess.setWidth 64) :: s.seen }) ∧
  (∀ s : State, act (.rd 13) s = .next { s with seen := .hostReceived s.rInt :: s.seen }) ∧
  (∀ s : State, act (.rd 14) s = .next { s with seen := .hostReceived s.rNum :: s.seen }) ∧
  (∀ s : State, act (.rd 15) s = .next { s with seen := .hostReceived s.rDen :: s.seen }) ∧
  (∀ s : State, act (.rd 16) s = .next { s with seen := .hostReceived (s.msIdx.setWidth 64) :: s.seen }) ∧
  (∀ s : State, act (.rd 17) s = .next { s with seen := .hostReceived (s.msDbl.setWidth 64) :: s.seen }) ∧
  (∀ s : State, act (.rd 18) s = .next { s with seen := .hostReceived (s.msA.setWidth 64) :: s.seen }) ∧
  (∀ s : State, act (.rd 19) s = .next { s with seen := .hostReceived (s.msB.setWidth 64) :: s.seen }) ∧
  (∀ s : State, act (.rd 20) s = .next { s with seen := .hostReceived (s.msC.setWidth 64) :: s.seen }) ∧
  (∀ s : State, act (.rd 21) s = .next { s with seen := .hostReceived (s.msR.setWidth 64) :: s.seen }) ∧
  (∀ s : State, act (.rd 22) s = .next { s with seen := .hostReceived (s.msP1.setWidth 64) :: s.seen }) ∧
  (∀ s : State, act (.rd 23) s = .next { s with seen := .hostReceived (s.msP2.setWidth 64) :: s.seen }) ∧
  (∀ s : State, act (.rd 24) s = .next { s with seen := .hostReceived (s.msP3.setWidth 64) :: s.seen }) ∧
  (∀ s : State, act (.rd 25) s = .next { s with seen := .hostReceived (s.msBase.setWidth 64) :: s.seen }) ∧
  (∀ s : State, act (.rd 26) s = .next { s with seen := .hostReceived (s.msRreg.setWidth 64) :: s.seen }) ∧
  (∀ (s : State) (i : Nat) (r : Reg), regOf i = some r →
    act (.rd i) s = .next { s with seen := .hostReceived (readReg r s.toBlock) :: s.seen })

/-- stb sets that byte only; ldb hands out the byte, or stops when nothing has written it (the stop is the model's choice, log
2). Derived from R223, R225. The last clause is the model's choice (DESIGN CHOICE, log 2): R37 recommends a fault and does
not require it. -/
def Obligations.HostBufferAccess : Prop :=
  (∀ (s : State) (a v : Nat), a < 0x2A → v < 256 → ∃ t, act (.stb a v) s = .next t ∧
      Memory.read t.mem a = some (BitVec.ofNat 8 v) ∧ (∀ a', a' ≠ a → Memory.read t.mem a' = Memory.read s.mem a') ∧
      t = { s with mem := t.mem }) ∧
  (∀ (s : State) (a : Nat) (b : Byte), a < 0x2A → Memory.read s.mem a = some b →
    act (.ldb a) s = .next { s with seen := .hostReceived (b.setWidth 64) :: s.seen }) ∧
  (∀ (s : State) (a : Nat), a < 0x2A → Memory.read s.mem a = none → act (.ldb a) s = .fault (.unwrittenByte a))

/-- A buffer address above 0x29, or a stb of a value above 0xFF, raises InvalidState sub-code 9. Formalises R224. -/
def Obligations.BadBufferAccessRaises : Prop :=
  (∀ (s : State) (a v : Nat), 0x29 < a ∨ 0xFF < v →
    act (.stb a v) s = .next { s with lastErr := 6, errs := s.errs ||| 0x40, errInfo := 0x09#8 ++ BitVec.ofNat 8 (a % 256) }) ∧
  (∀ (s : State) (a : Nat), 0x29 < a →
    act (.ldb a) s = .next { s with lastErr := 6, errs := s.errs ||| 0x40, errInfo := 0x09#8 ++ BitVec.ofNat 8 (a % 256),
                                    seen := .hostReceived 0 :: s.seen }) ∧
  (∀ (i : Instr) (s t : State) (a : Nat), exec i s = .next t → 0x29 < a → Memory.read t.mem a = Memory.read s.mem a) ∧
  (∀ (i : Instr) (s : State) (a : Nat), exec i s = .fault (.unwrittenByte a) → a ≤ 0x29)

/-- take hands the sixteen bytes of TXF to the transport and changes nothing else (its stop at an unwritten byte is the model's
choice, log 2). Derived from R228, R93. The second clause is the model's choice (DESIGN CHOICE, log 2): R228 says nothing of
a stop. -/
def Obligations.TakeReadsTxf : Prop :=
  (∀ (s : State) (f : Frame), (∀ i, i < 16 → Memory.read s.mem i = some (f.extractLsb' (8 * i) 8)) →
    act .take s = .next { s with seen := .requestLeft f :: s.seen }) ∧
  (∀ (s : State) (n : Nat), n < 16 → (∀ i, i < n → (Memory.read s.mem i).isSome = true) → Memory.read s.mem n = none →
    act .take s = .fault (.unwrittenByte n))

/-- Reset zeroes the error registers; every other register and byte loses its value (how an unspecified location is held is the
model's choice, log 2, 3). Derived from R280, R36, R37. The model's choice: an unspecified byte has no value (DESIGN CHOICE,
log 2); an unspecified register is on the list `unset` and takes a new free value, the next one of `Config.unspecified`, at
the reset and before every action; `pending` and `seen` are not the block's and survive a reset (DESIGN CHOICE, log 3). -/
def Obligations.ResetActionClearsErrorsAndBuffers : Prop :=
  (∀ s : State, ∃ t, act .reset s = .next t ∧ t.lastErr = 0 ∧ t.errs = 0 ∧ t.errInfo = 0 ∧
    (∀ a, Memory.read t.mem a = none) ∧ t.unset = [.fTid, .fFlags, .fAddr, .fData, .pTid, .pFlags, .pAddr, .pData, .pSuccess,
      .rInt, .rNum, .rDen, .msIdx, .msDbl, .msA, .msB, .msC, .msR, .msP1, .msP2, .msP3, .msBase, .msRreg] ∧
    t.pending = s.pending ∧ t.seen = s.seen ∧ t.draws = s.draws + 23 ∧
    (∀ (i : Nat) (r : Reg), t.unset[i]? = some r → readReg r t.toBlock =
      BitVec.ofNat 64 ((Config.unspecified (s.draws + i)).toNat % 2 ^ regWidth Config.std r))) ∧
  (∀ (s : State) (i : Nat) (r : Reg), s.unset.Nodup → (∀ q, q ∈ s.unset → q ∈ dataRegs) → s.unset[i]? = some r →
    readReg r (refreshed s).toBlock =
      BitVec.ofNat 64 ((Config.unspecified (s.draws + i)).toNat % 2 ^ regWidth Config.std r)) ∧
  (∀ s : State, (refreshed s).draws = s.draws + s.unset.length) ∧
  (∀ (s : State) (r : Reg), r ∉ s.unset → readReg r (refreshed s).toBlock = readReg r s.toBlock) ∧
  (∀ s : State, (refreshed s).mem = s.mem ∧ (refreshed s).lastErr = s.lastErr ∧ (refreshed s).errs = s.errs ∧
    (refreshed s).errInfo = s.errInfo ∧ (refreshed s).unset = s.unset ∧
    (refreshed s).pending = s.pending ∧ (refreshed s).seen = s.seen)

/-- Recording cause c with sub-code s and value v. Formalises R250. -/
def Obligations.RecordingWritesTheThreeErrorRegisters : Prop :=
  ∀ (c : Cause) (sub val : Byte) (s : Block),
    (recordCause c sub val s).lastErr = causeCode c ∧
    (∀ j, j < 8 → (recordCause c sub val s).errs.getLsbD j = (decide (j = (causeCode c).toNat) || s.errs.getLsbD j)) ∧
    (recordCause c sub val s).errInfo.toNat = (sub.toNat <<< 8) ||| val.toNat ∧
    recordCause c sub val s = { s with lastErr := (recordCause c sub val s).lastErr, errs := (recordCause c sub val s).errs,
                                       errInfo := (recordCause c sub val s).errInfo }

/-- A command that raises changes the three error registers and nothing else. Derived from R251, R242, R240. -/
def Obligations.RaiseIsPreciseAndClean : Prop :=
  ∀ (i : Instr) (s t : State), i.isCommand = true → exec i s = .next t → t.lastErr ≠ 0 → t.lastErr ≠ 3 →
    ∃ (c : Cause) (sub val : Byte), causeCode c = t.lastErr ∧ t = { s with toBlock := recordCause c sub val s.toBlock }

/-- Each command ends only with the causes and sub-codes its row of the table allows. Derived from R242, R243. -/
def Obligations.CommandCausesAreTheTables : Prop :=
  ∀ (i : Instr) (s t : State), i.isCommand = true → exec i s = .next t → t.lastErr ≠ 0 →
    ∃ c sub, (c, sub) ∈ allowedCauses i ∧ t.lastErr = causeCode c ∧ t.errInfo.extractLsb' 8 8 = sub

/-- No action but CLRERR and reset clears a bit of ERRS. Derived from R24, R256. -/
def Obligations.StickyBitsStayUntilClrerrOrReset : Prop :=
  ∀ (a : Action) (s t : State), a ≠ .wr 0 0x01 → a ≠ .reset → act a s = .next t →
    ∀ j, s.errs.getLsbD j = true → t.errs.getLsbD j = true

/-- Every step keeps the invariant: canonical buffer space, legal LAST_ERR, hard-wired ERRS bits, a sticky bit for the last
cause. Derived from R23, R24, R61, R241, R250. -/
def Obligations.EveryStepKeepsTheInvariant : Prop :=
  ∀ s t : State, Inv s → step s = .next t → Inv t

/-- The state after reset meets the invariant and has clean error registers. Derived from R36, R23, R24. -/
def Obligations.ResetMeetsTheInvariant : Prop :=
  Inv State.reset ∧ State.reset.lastErr = 0 ∧ State.reset.errs = 0 ∧ State.reset.errInfo = 0

/-- CLRERR zeroes ERRS, ERRINFO and LAST_ERR and changes nothing else. Formalises R226. -/
def Obligations.ClrerrClearsTheErrorRegisters : Prop :=
  ∀ s : State, exec .clrerr s = .next { s with errs := 0, errInfo := 0, lastErr := 0 }

/-- A command other than CLRERR that ends with no cause leaves ERRS and ERRINFO. Derived from R23, R25, R256. -/
def Obligations.CommandWithoutCauseLeavesErrsAndErrinfo : Prop :=
  ∀ (i : Instr) (s t : State), i.isCommand = true → i ≠ .clrerr → exec i s = .next t → t.lastErr = 0 →
    t.errs = s.errs ∧ t.errInfo = s.errInfo

/-- A command runs the same whatever the error registers hold: the block does not lock. Derived from R252, R255. -/
def Obligations.ErrorRegistersNeverChangeWhatACommandDoes : Prop :=
  (∀ (i : Instr) (s t : State) (l : BitVec 3) (e : BitVec 8) (x : BitVec 16), exec i s = .next t →
    ∃ t', exec i { s with lastErr := l, errs := e, errInfo := x } = .next t' ∧
      { t' with lastErr := t.lastErr, errs := t.errs, errInfo := t.errInfo } = t ∧
      (i.isCommand = true → t'.lastErr = t.lastErr)) ∧
  (∀ (i : Instr) (s : State) (r : Fault) (l : BitVec 3) (e : BitVec 8) (x : BitVec 16), exec i s = .fault r →
    exec i { s with lastErr := l, errs := e, errInfo := x } = .fault r)

/-- The column "written by" of the register table: no instruction writes a register it is not named for. Derived from R21, R26,
R27, R130, R150, R197. -/
def Obligations.OnlyTheNamedInstructionsWriteARegister : Prop :=
  ∀ (i : Instr) (s t : State), exec i s = .next t →
    (t.fTid = s.fTid ∧ t.fFlags = s.fFlags ∧ t.fAddr = s.fAddr ∧ t.fData = s.fData ∧ t.msIdx = s.msIdx ∧ t.msDbl = s.msDbl) ∧
    (i ∉ [Instr.parse8x8, .parse8x16, .parse8x32, .parse8x64, .parse16x64, .parse32x32] →
      t.pTid = s.pTid ∧ t.pFlags = s.pFlags ∧ t.pAddr = s.pAddr ∧ t.pData = s.pData ∧ t.pSuccess = s.pSuccess) ∧
    (i ∉ [Instr.reduce, .double] → t.rInt = s.rInt ∧ t.rNum = s.rNum ∧ t.rDen = s.rDen) ∧
    (i ∉ [Instr.calcms, .unpack] → t.msA = s.msA ∧ t.msB = s.msB ∧ t.msC = s.msC) ∧
    (i ≠ .calcms → t.msR = s.msR) ∧
    (i ∉ [Instr.pack, .unpack] → t.msP1 = s.msP1 ∧ t.msP2 = s.msP2 ∧ t.msP3 = s.msP3) ∧
    (i ≠ .msaddr → t.msBase = s.msBase) ∧ (i ≠ .renc → t.msRreg = s.msRreg) ∧
    (i.isCommand = false → t.lastErr = s.lastErr ∧ t.errs = s.errs ∧ t.errInfo = s.errInfo) ∧
    (i ∉ [Instr.build8x8, .build8x16, .build8x32, .build8x64, .build16x64, .build32x32, .pack] → i.isCommand = true →
      t.mem = s.mem) ∧
    (t.pending = s.pending ∧ t.seen = s.seen ∧ t.draws = s.draws ∧ ∀ r, r ∈ t.unset → r ∈ s.unset)

/-- BUILD.8x8: the sixteen bytes of TXF, or InvalidState sub-code 2. Formalises R132. -/
def Obligations.Build8x8WritesTheFrame : Prop :=
  ∀ s : State, exec .build8x8 s =
      if 0x100 ≤ s.fAddr.toNat then
        .next { s with lastErr := 6, errs := s.errs ||| 0x40, errInfo := 0x0200 }
      else if 0x100 ≤ s.fData.toNat then
        .next { s with lastErr := 6, errs := s.errs ||| 0x40, errInfo := 0x0201 }
      else .next { s with lastErr := 0, mem := Memory.writeBytes s.mem 0x00 [
        0x41, s.fTid, s.fFlags, 0, s.fAddr.extractLsb' 0 8, s.fData.extractLsb' 0 8, 0, 0, 0, 0, 0, 0, 0, 0, 0, 0] }

/-- BUILD.8x16: the sixteen bytes of TXF, or InvalidState sub-code 2. Formalises R133. -/
def Obligations.Build8x16WritesTheFrame : Prop :=
  ∀ s : State, exec .build8x16 s =
      if 0x100 ≤ s.fAddr.toNat then
        .next { s with lastErr := 6, errs := s.errs ||| 0x40, errInfo := 0x0200 }
      else if 0x10000 ≤ s.fData.toNat then
        .next { s with lastErr := 6, errs := s.errs ||| 0x40, errInfo := 0x0201 }
      else .next { s with lastErr := 0, mem := Memory.writeBytes s.mem 0x00 [
        0x42, s.fTid, s.fFlags, 0, s.fAddr.extractLsb' 0 8, s.fData.extractLsb' 0 8, s.fData.extractLsb' 8 8,
         0, 0, 0, 0, 0, 0, 0, 0, 0] }

/-- BUILD.8x32: the sixteen bytes of TXF, or InvalidState sub-code 2. Formalises R134. -/
def Obligations.Build8x32WritesTheFrame : Prop :=
  ∀ s : State, exec .build8x32 s =
      if 0x100 ≤ s.fAddr.toNat then
        .next { s with lastErr := 6, errs := s.errs ||| 0x40, errInfo := 0x0200 }
      else if 0x100000000 ≤ s.fData.toNat then
        .next { s with lastErr := 6, errs := s.errs ||| 0x40, errInfo := 0x0201 }
      else .next { s with lastErr := 0, mem := Memory.writeBytes s.mem 0x00 [
        0x43, s.fTid, s.fFlags, 0, s.fAddr.extractLsb' 0 8, s.fData.extractLsb' 0 8, s.fData.extractLsb' 8 8, s.fData.extractLsb' 16 8, s.fData.extractLsb' 24 8,
         0, 0, 0, 0, 0, 0, 0] }

/-- BUILD.8x64: the sixteen bytes of TXF, or InvalidState sub-code 2. Formalises R135. -/
def Obligations.Build8x64WritesTheFrame : Prop :=
  ∀ s : State, exec .build8x64 s =
      if 0x100 ≤ s.fAddr.toNat then
        .next { s with lastErr := 6, errs := s.errs ||| 0x40, errInfo := 0x0200 }
      else .next { s with lastErr := 0, mem := Memory.writeBytes s.mem 0x00 [
        0x44, s.fTid, s.fFlags, 0, s.fAddr.extractLsb' 0 8, s.fData.extractLsb' 0 8, s.fData.extractLsb' 8 8, s.fData.extractLsb' 16 8, s.fData.extractLsb' 24 8, s.fData.extractLsb' 32 8, s.fData.extractLsb' 40 8, s.fData.extractLsb' 48 8, s.fData.extractLsb' 56 8,
         0, 0, 0] }

/-- BUILD.16x64: the sixteen bytes of TXF, or InvalidState sub-code 2. Formalises R136. -/
def Obligations.Build16x64WritesTheFrame : Prop :=
  ∀ s : State, exec .build16x64 s =
      if 0x10000 ≤ s.fAddr.toNat then
        .next { s with lastErr := 6, errs := s.errs ||| 0x40, errInfo := 0x0200 }
      else .next { s with lastErr := 0, mem := Memory.writeBytes s.mem 0x00 [
        0x45, s.fTid, s.fFlags, 0, s.fAddr.extractLsb' 0 8, s.fAddr.extractLsb' 8 8, s.fData.extractLsb' 0 8, s.fData.extractLsb' 8 8, s.fData.extractLsb' 16 8, s.fData.extractLsb' 24 8, s.fData.extractLsb' 32 8, s.fData.extractLsb' 40 8, s.fData.extractLsb' 48 8, s.fData.extractLsb' 56 8,
         0, 0] }

/-- BUILD.32x32: the sixteen bytes of TXF, or InvalidState sub-code 2. Formalises R137. -/
def Obligations.Build32x32WritesTheFrame : Prop :=
  ∀ s : State, exec .build32x32 s =
      if 0x100000000 ≤ s.fData.toNat then
        .next { s with lastErr := 6, errs := s.errs ||| 0x40, errInfo := 0x0201 }
      else .next { s with lastErr := 0, mem := Memory.writeBytes s.mem 0x00 [
        0x4B, s.fTid, s.fFlags, 0, s.fAddr.extractLsb' 0 8, s.fAddr.extractLsb' 8 8, s.fAddr.extractLsb' 16 8, s.fAddr.extractLsb' 24 8, s.fData.extractLsb' 0 8, s.fData.extractLsb' 8 8, s.fData.extractLsb' 16 8, s.fData.extractLsb' 24 8,
         0, 0, 0, 0] }

/-- BUILD stores only to TXF and PACK only to MSREG; a raising one stores nothing; their other effects are named registers.
Derived from R130, R131, R196, R251. -/
def Obligations.StoringCommandsStoreOnlyTheirBuffer : Prop :=
  (∀ (k : FrameClass) (s t : State), exec (buildInstr k) s = .next t →
    t = { s with mem := t.mem, lastErr := t.lastErr, errs := t.errs, errInfo := t.errInfo } ∧
    (∀ a, 0x10 ≤ a → Memory.read t.mem a = Memory.read s.mem a) ∧
    (t.lastErr ≠ 0 → ∀ a, Memory.read t.mem a = Memory.read s.mem a)) ∧
  (∀ s t : State, exec .pack s = .next t →
    t = { s with msP1 := t.msP1, msP2 := t.msP2, msP3 := t.msP3, mem := t.mem, unset := t.unset,
                 lastErr := t.lastErr, errs := t.errs, errInfo := t.errInfo } ∧
    (∀ a, a < 0x20 ∨ 0x2A ≤ a → Memory.read t.mem a = Memory.read s.mem a) ∧
    (t.lastErr ≠ 0 → ∀ a, Memory.read t.mem a = Memory.read s.mem a))

/-- Two BUILDs that leave the same frame in TXF had the same class and the same operands. Derived from R139, R92. -/
def Obligations.DifferentOperandsBuildDifferentFrames : Prop :=
  ∀ (k k' : FrameClass) (s s' t t' : State), exec (buildInstr k) s = .next t → exec (buildInstr k') s' = .next t' →
    t.lastErr = 0 → t'.lastErr = 0 → (∀ a, a < 16 → Memory.read t.mem a = Memory.read t'.mem a) →
    k = k' ∧ s.fTid = s'.fTid ∧ s.fFlags = s'.fFlags ∧ s.fAddr = s'.fAddr ∧ s.fData = s'.fData

/-- PARSE.8x8: the two tests, the five results, and the success bit (CHECK_TARGET true). Formalises R153. `unset` is the model's
record of which registers hold no specified value (log 3, after R37's last sentence): a register written is taken off it. -/
def Obligations.Parse8x8ReadsTheFrame : Prop :=
  ∀ (s : State) (f : Nat → Byte), (∀ i, i < 6 → i ≠ 3 → Memory.read s.mem (0x10 + i) = some (f i)) →
    exec .parse8x8 s =
      if f 0 ≠ 0x41 then .next { s with lastErr := 2, errs := s.errs ||| 0x04, errInfo := 0x00#8 ++ f 0 }
      else if f 1 ≠ s.fTid then .next { s with lastErr := 2, errs := s.errs ||| 0x04, errInfo := 0x01#8 ++ f 1 }
      else if (f 2).getLsbD 1 = false then
        .next { s with pTid := f 1, pFlags := f 2, pAddr := (f 4).setWidth 32,
                       pData := (f 5).setWidth 64, pSuccess := 0,
                       unset := settle [.pTid, .pFlags, .pAddr, .pData, .pSuccess] s.unset,
                       lastErr := 3, errs := s.errs ||| 0x08, errInfo := 0x02#8 ++ f 2 }
      else
        .next { s with pTid := f 1, pFlags := f 2, pAddr := (f 4).setWidth 32,
                       pData := (f 5).setWidth 64, pSuccess := 1,
                       unset := settle [.pTid, .pFlags, .pAddr, .pData, .pSuccess] s.unset, lastErr := 0 }

/-- PARSE.8x16: the two tests, the five results, and the success bit (CHECK_TARGET true). Formalises R154. `unset` is the model's
record of which registers hold no specified value (log 3, after R37's last sentence): a register written is taken off it. -/
def Obligations.Parse8x16ReadsTheFrame : Prop :=
  ∀ (s : State) (f : Nat → Byte), (∀ i, i < 7 → i ≠ 3 → Memory.read s.mem (0x10 + i) = some (f i)) →
    exec .parse8x16 s =
      if f 0 ≠ 0x42 then .next { s with lastErr := 2, errs := s.errs ||| 0x04, errInfo := 0x00#8 ++ f 0 }
      else if f 1 ≠ s.fTid then .next { s with lastErr := 2, errs := s.errs ||| 0x04, errInfo := 0x01#8 ++ f 1 }
      else if (f 2).getLsbD 1 = false then
        .next { s with pTid := f 1, pFlags := f 2, pAddr := (f 4).setWidth 32,
                       pData := (f 6 ++ f 5).setWidth 64, pSuccess := 0,
                       unset := settle [.pTid, .pFlags, .pAddr, .pData, .pSuccess] s.unset,
                       lastErr := 3, errs := s.errs ||| 0x08, errInfo := 0x02#8 ++ f 2 }
      else
        .next { s with pTid := f 1, pFlags := f 2, pAddr := (f 4).setWidth 32,
                       pData := (f 6 ++ f 5).setWidth 64, pSuccess := 1,
                       unset := settle [.pTid, .pFlags, .pAddr, .pData, .pSuccess] s.unset, lastErr := 0 }

/-- PARSE.8x32: the two tests, the five results, and the success bit (CHECK_TARGET true). Formalises R155. `unset` is the model's
record of which registers hold no specified value (log 3, after R37's last sentence): a register written is taken off it. -/
def Obligations.Parse8x32ReadsTheFrame : Prop :=
  ∀ (s : State) (f : Nat → Byte), (∀ i, i < 9 → i ≠ 3 → Memory.read s.mem (0x10 + i) = some (f i)) →
    exec .parse8x32 s =
      if f 0 ≠ 0x43 then .next { s with lastErr := 2, errs := s.errs ||| 0x04, errInfo := 0x00#8 ++ f 0 }
      else if f 1 ≠ s.fTid then .next { s with lastErr := 2, errs := s.errs ||| 0x04, errInfo := 0x01#8 ++ f 1 }
      else if (f 2).getLsbD 1 = false then
        .next { s with pTid := f 1, pFlags := f 2, pAddr := (f 4).setWidth 32,
                       pData := (f 8 ++ f 7 ++ f 6 ++ f 5).setWidth 64, pSuccess := 0,
                       unset := settle [.pTid, .pFlags, .pAddr, .pData, .pSuccess] s.unset,
                       lastErr := 3, errs := s.errs ||| 0x08, errInfo := 0x02#8 ++ f 2 }
      else
        .next { s with pTid := f 1, pFlags := f 2, pAddr := (f 4).setWidth 32,
                       pData := (f 8 ++ f 7 ++ f 6 ++ f 5).setWidth 64, pSuccess := 1,
                       unset := settle [.pTid, .pFlags, .pAddr, .pData, .pSuccess] s.unset, lastErr := 0 }

/-- PARSE.8x64: the two tests, the five results, and the success bit (CHECK_TARGET true). Formalises R156. `unset` is the model's
record of which registers hold no specified value (log 3, after R37's last sentence): a register written is taken off it. -/
def Obligations.Parse8x64ReadsTheFrame : Prop :=
  ∀ (s : State) (f : Nat → Byte), (∀ i, i < 13 → i ≠ 3 → Memory.read s.mem (0x10 + i) = some (f i)) →
    exec .parse8x64 s =
      if f 0 ≠ 0x44 then .next { s with lastErr := 2, errs := s.errs ||| 0x04, errInfo := 0x00#8 ++ f 0 }
      else if f 1 ≠ s.fTid then .next { s with lastErr := 2, errs := s.errs ||| 0x04, errInfo := 0x01#8 ++ f 1 }
      else if (f 2).getLsbD 1 = false then
        .next { s with pTid := f 1, pFlags := f 2, pAddr := (f 4).setWidth 32,
                       pData := f 12 ++ f 11 ++ f 10 ++ f 9 ++ f 8 ++ f 7 ++ f 6 ++ f 5, pSuccess := 0,
                       unset := settle [.pTid, .pFlags, .pAddr, .pData, .pSuccess] s.unset,
                       lastErr := 3, errs := s.errs ||| 0x08, errInfo := 0x02#8 ++ f 2 }
      else
        .next { s with pTid := f 1, pFlags := f 2, pAddr := (f 4).setWidth 32,
                       pData := f 12 ++ f 11 ++ f 10 ++ f 9 ++ f 8 ++ f 7 ++ f 6 ++ f 5, pSuccess := 1,
                       unset := settle [.pTid, .pFlags, .pAddr, .pData, .pSuccess] s.unset, lastErr := 0 }

/-- PARSE.16x64: the two tests, the five results, and the success bit (CHECK_TARGET true). Formalises R157. `unset` is the
model's record of which registers hold no specified value (log 3, after R37's last sentence): a register written is taken off
it. -/
def Obligations.Parse16x64ReadsTheFrame : Prop :=
  ∀ (s : State) (f : Nat → Byte), (∀ i, i < 14 → i ≠ 3 → Memory.read s.mem (0x10 + i) = some (f i)) →
    exec .parse16x64 s =
      if f 0 ≠ 0x45 then .next { s with lastErr := 2, errs := s.errs ||| 0x04, errInfo := 0x00#8 ++ f 0 }
      else if f 1 ≠ s.fTid then .next { s with lastErr := 2, errs := s.errs ||| 0x04, errInfo := 0x01#8 ++ f 1 }
      else if (f 2).getLsbD 1 = false then
        .next { s with pTid := f 1, pFlags := f 2, pAddr := (f 5 ++ f 4).setWidth 32,
                       pData := f 13 ++ f 12 ++ f 11 ++ f 10 ++ f 9 ++ f 8 ++ f 7 ++ f 6, pSuccess := 0,
                       unset := settle [.pTid, .pFlags, .pAddr, .pData, .pSuccess] s.unset,
                       lastErr := 3, errs := s.errs ||| 0x08, errInfo := 0x02#8 ++ f 2 }
      else
        .next { s with pTid := f 1, pFlags := f 2, pAddr := (f 5 ++ f 4).setWidth 32,
                       pData := f 13 ++ f 12 ++ f 11 ++ f 10 ++ f 9 ++ f 8 ++ f 7 ++ f 6, pSuccess := 1,
                       unset := settle [.pTid, .pFlags, .pAddr, .pData, .pSuccess] s.unset, lastErr := 0 }

/-- PARSE.32x32: the two tests, the five results, and the success bit (CHECK_TARGET true). Formalises R158. `unset` is the
model's record of which registers hold no specified value (log 3, after R37's last sentence): a register written is taken off
it. -/
def Obligations.Parse32x32ReadsTheFrame : Prop :=
  ∀ (s : State) (f : Nat → Byte), (∀ i, i < 12 → i ≠ 3 → Memory.read s.mem (0x10 + i) = some (f i)) →
    exec .parse32x32 s =
      if f 0 ≠ 0x4B then .next { s with lastErr := 2, errs := s.errs ||| 0x04, errInfo := 0x00#8 ++ f 0 }
      else if f 1 ≠ s.fTid then .next { s with lastErr := 2, errs := s.errs ||| 0x04, errInfo := 0x01#8 ++ f 1 }
      else if (f 2).getLsbD 1 = false then
        .next { s with pTid := f 1, pFlags := f 2, pAddr := f 7 ++ f 6 ++ f 5 ++ f 4,
                       pData := (f 11 ++ f 10 ++ f 9 ++ f 8).setWidth 64, pSuccess := 0,
                       unset := settle [.pTid, .pFlags, .pAddr, .pData, .pSuccess] s.unset,
                       lastErr := 3, errs := s.errs ||| 0x08, errInfo := 0x02#8 ++ f 2 }
      else
        .next { s with pTid := f 1, pFlags := f 2, pAddr := f 7 ++ f 6 ++ f 5 ++ f 4,
                       pData := (f 11 ++ f 10 ++ f 9 ++ f 8).setWidth 64, pSuccess := 1,
                       unset := settle [.pTid, .pFlags, .pAddr, .pData, .pSuccess] s.unset, lastErr := 0 }

/-- PARSE does not depend on the reserved byte, the padding, or any other memory, and changes no memory. Derived from R159, R160,
R68. -/
def Obligations.ParseReadsOnlyTheClassBytes : Prop :=
  ∀ (k : FrameClass) (s : State) (m : Memory),
    (∀ i, i < 4 + k.na + k.nd → i ≠ 3 → Memory.read m (0x10 + i) = Memory.read s.mem (0x10 + i)) →
    (∀ t, exec (parseInstr k) s = .next t → t.mem = s.mem ∧ exec (parseInstr k) { s with mem := m } = .next { t with mem := m }) ∧
    (∀ r, exec (parseInstr k) s = .fault r → exec (parseInstr k) { s with mem := m } = .fault r)

/-- With CHECK_TARGET false PARSE does not read F_TID and the target test is absent. Derived from R160, R151. -/
def Obligations.WithoutTargetCheckParseDoesNotReadFTid : Prop :=
  ∀ (k : FrameClass) (s t : Block) (tid : Byte), parseFrame { Config.std with checkTarget := false } k s = .next t →
    parseFrame { Config.std with checkTarget := false } k { s with fTid := tid } = .next { t with fTid := tid } ∧
    ¬ (t.lastErr = 2 ∧ t.errInfo.extractLsb' 8 8 = 1)

/-- Frame round trip: BUILD.k, loopback, PARSE.k reproduces the inputs exactly. Derived from R138, R111, R283. -/
def Obligations.FrameRoundTrip : Prop :=
  ∀ (k : FrameClass) (s : State), s.fAddr.toNat < 2 ^ k.aw → s.fData.toNat < 2 ^ k.dw → Reg.fTid ∉ s.unset →
    ∃ s1 s2 s3, exec (buildInstr k) s = .next s1 ∧ loopback s1 = .next s2 ∧ exec (parseInstr k) s2 = .next s3 ∧
      s3.pTid = s.fTid ∧ s3.pFlags = s.fFlags ∧ s3.pAddr = s.fAddr ∧ s3.pData = s.fData ∧
      s3.pSuccess = s.fFlags.extractLsb' 1 1 ∧
      s3.lastErr = (if s.fFlags.getLsbD 1 = true then 0 else 3)

/-- read.k with a good response returns the response's data field; with no response it stops with cause 1 (DEDUCED, log 16).
Derived from R112, R151, R240, R241. That a transport failure is a missing response, with which the host stops with cause 1,
is the model's (DEDUCED, log 16). -/
def Obligations.FacadeReadReturnsTheResponseData : Prop :=
  (∀ (k : FrameClass) (t a : Nat) (f : Frame) (s : State), t < 256 → a < 2 ^ k.aw →
    f.extractLsb' 0 8 = magicOf k → f.extractLsb' 8 8 = BitVec.ofNat 8 t → f.getLsbD 17 = true →
    ∃ s', facadeRead k t a (some f) s = .next (.value ((f.extractLsb' (32 + k.aw) k.dw).setWidth 64), s')) ∧
  (∀ (k : FrameClass) (t a : Nat) (s : State), t < 256 → a < 2 ^ k.aw →
    ∃ s', facadeRead k t a none s = .next (.stopped 1, s'))

/-- MemRead after MemWrite returns the value, byte a+i holds bits 8i+7:8i, and no other byte changes. Formalises R63. -/
def Obligations.MemReadAfterMemWrite : Prop :=
  ∀ (m : Memory) (a n v : Nat), v < 2 ^ (8 * n) →
    memRead (memWrite m a n v) a n = .ok v ∧
    (∀ i, i < n → Memory.read (memWrite m a n v) (a + i) = some (BitVec.ofNat 8 (v >>> (8 * i)))) ∧
    (∀ x, x < a ∨ a + n ≤ x → Memory.read (memWrite m a n v) x = Memory.read m x)

/-- REDUCE: the reduced rate in place, InvalidState for a zero denominator, RangeError when the integer part overflows.
Formalises R174. `unset` is the model's record of which registers hold no specified value (log 3, after R37's last sentence):
a register written is taken off it. -/
def Obligations.ReduceResult : Prop :=
  ∀ s : State, exec .reduce s =
      if s.rDen = 0 then .next { s with lastErr := 6, errs := s.errs ||| 0x40, errInfo := 0x0300 }
      else if 2 ^ 64 ≤ s.rInt.toNat + s.rNum.toNat / s.rDen.toNat then
        .next { s with lastErr := 4, errs := s.errs ||| 0x10, errInfo := 0x0201 }
      else .next { s with
        rInt := BitVec.ofNat 64 (s.rInt.toNat + s.rNum.toNat / s.rDen.toNat),
        rNum := BitVec.ofNat 64 ((s.rNum.toNat % s.rDen.toNat) / Nat.gcd (s.rNum.toNat % s.rDen.toNat) s.rDen.toNat),
        rDen := BitVec.ofNat 64 (s.rDen.toNat / Nat.gcd (s.rNum.toNat % s.rDen.toNat) s.rDen.toNat),
        unset := settle [.rInt, .rNum, .rDen] s.unset, lastErr := 0 }

/-- DOUBLE: integer and num doubled and reduced in place; the tests in order den, step 2, step 3, step 1. Formalises R175.
`unset` is the model's record of which registers hold no specified value (log 3, after R37's last sentence): a register
written is taken off it. -/
def Obligations.DoubleResult : Prop :=
  ∀ s : State, exec .double s =
      if s.rDen = 0 then .next { s with lastErr := 6, errs := s.errs ||| 0x40, errInfo := 0x0300 }
      else if 2 ^ 64 ≤ 2 * s.rInt.toNat then .next { s with lastErr := 4, errs := s.errs ||| 0x10, errInfo := 0x0202 }
      else if 2 ^ 64 ≤ 2 * s.rNum.toNat then .next { s with lastErr := 4, errs := s.errs ||| 0x10, errInfo := 0x0203 }
      else if 2 ^ 64 ≤ 2 * s.rInt.toNat + 2 * s.rNum.toNat / s.rDen.toNat then
        .next { s with lastErr := 4, errs := s.errs ||| 0x10, errInfo := 0x0201 }
      else .next { s with
        rInt := BitVec.ofNat 64 (2 * s.rInt.toNat + 2 * s.rNum.toNat / s.rDen.toNat),
        rNum := BitVec.ofNat 64 ((2 * s.rNum.toNat % s.rDen.toNat) / Nat.gcd (2 * s.rNum.toNat % s.rDen.toNat) s.rDen.toNat),
        rDen := BitVec.ofNat 64 (s.rDen.toNat / Nat.gcd (2 * s.rNum.toNat % s.rDen.toNat) s.rDen.toNat),
        unset := settle [.rInt, .rNum, .rDen] s.unset, lastErr := 0 }

/-- After REDUCE or DOUBLE: den >= 1, num < den, gcd(num, den) = 1, and a second REDUCE changes nothing. Formalises R176. -/
def Obligations.ReducedRateIsInLowestTerms : Prop :=
  ∀ (i : Instr) (s t : State), i = .reduce ∨ i = .double → exec i s = .next t → t.lastErr = 0 →
    1 ≤ t.rDen.toNat ∧ t.rNum.toNat < t.rDen.toNat ∧ Nat.gcd t.rNum.toNat t.rDen.toNat = 1 ∧
    (t.rNum = 0 → t.rDen = 1) ∧ exec .reduce t = .next t

/-- REDUCE keeps the rational value and DOUBLE doubles it, exactly. Formalises R177. -/
def Obligations.ReduceKeepsAndDoubleDoublesTheValue : Prop :=
  (∀ s t : State, exec .reduce s = .next t → t.lastErr = 0 → s.rDen ≠ 0 ∧ t.rDen ≠ 0 ∧
    (t.rInt.toNat : ℚ) + t.rNum.toNat / t.rDen.toNat = s.rInt.toNat + s.rNum.toNat / s.rDen.toNat) ∧
  (∀ s t : State, exec .double s = .next t → t.lastErr = 0 → s.rDen ≠ 0 ∧ t.rDen ≠ 0 ∧
    (t.rInt.toNat : ℚ) + t.rNum.toNat / t.rDen.toNat = 2 * (s.rInt.toNat + s.rNum.toNat / s.rDen.toNat))

/-- The Euclidean loop as the spec writes it, cut off after 130 iterations, computes gcd on 64-bit operands. Derived from R172,
R178. -/
def Obligations.EuclideanLoopEndsWithin130Iterations : Prop :=
  ∀ x y : Nat, x < 2 ^ 64 → y < 2 ^ 64 → euclidLoop 130 x y = euclidGcd x y

/-- With MS_DBL = 0 CALCMS accepts exactly the integer rates 139,437 to 316,800,000 Hz. Derived from R190, R188, R186. -/
def Obligations.CalcmsAcceptsExactlyTheseIntegerRates : Prop :=
  ∀ s : State, s.msDbl = 0 → s.rNum = 0 → s.rDen = 1 → ∃ t, exec .calcms s = .next t ∧
    t = { s with msA := t.msA, msB := t.msB, msC := t.msC, msR := t.msR, unset := t.unset,
                 lastErr := t.lastErr, errs := t.errs, errInfo := t.errInfo } ∧
    (139437 ≤ s.rInt.toNat ∧ s.rInt.toNat ≤ 316800000 → t.lastErr = 0) ∧
    (s.rInt.toNat = 0 → t = { s with lastErr := 4, errs := s.errs ||| 0x10, errInfo := 0x0300 }) ∧
    ((0 < s.rInt.toNat ∧ s.rInt.toNat < 139437) ∨ 316800000 < s.rInt.toNat →
      t = { s with lastErr := 4, errs := s.errs ||| 0x10, errInfo := 0x0100 })

/-- CALCMS: the whole result and every exception in order, with MS_DBL, the r search and the shrink. Derived from R186, R187,
R188, R191, R192, R174, R175. `unset` is the model's record of which registers hold no specified value (log 3, after R37's
last sentence): a register written is taken off it. -/
def Obligations.CalcmsResult : Prop :=
  (∀ s : State, s.rDen = 0 →
    exec .calcms s = .next { s with lastErr := 6, errs := s.errs ||| 0x40, errInfo := 0x0300 }) ∧
  (∀ s u : State, s.msDbl = 1 → exec .double s = .next u → u.lastErr ≠ 0 → exec .calcms s = .next u) ∧
  (∀ (s : State) (x : Nat → State) (j : Nat), s.rDen ≠ 0 →
    (s.msDbl = 0 ∧ x 0 = s) ∨ (s.msDbl = 1 ∧ exec .double s = .next (x 0) ∧ (x 0).lastErr = 0) → j ≤ 5 →
    (∀ m, m < j → (x m).rInt.toNat < 5000000 ∧ exec .double (x m) = .next (x (m + 1)) ∧ (x (m + 1)).lastErr = 0) →
    (∀ u, j < 5 → (x j).rInt.toNat < 5000000 → exec .double (x j) = .next u → u.lastErr ≠ 0 →
      (u.errInfo = 0x0203 ∨ u.errInfo = 0x0201) ∧
      exec .calcms s = .next { s with lastErr := 4, errs := s.errs ||| 0x10, errInfo := u.errInfo }) ∧
    (∀ vn t vd g b c : Nat, j = 5 ∨ 5000000 ≤ (x j).rInt.toNat →
      vn = 2534400000 * (x j).rDen.toNat → t = (x j).rInt.toNat * (x j).rDen.toNat → vd = t + (x j).rNum.toNat →
      g = Nat.gcd (vn % vd) vd → b = vn % vd / g → c = vd / g →
      (2 ^ 64 ≤ vn → exec .calcms s = .next { s with lastErr := 4, errs := s.errs ||| 0x10, errInfo := 0x0204 }) ∧
      (vn < 2 ^ 64 → 2 ^ 64 ≤ t → exec .calcms s = .next { s with lastErr := 4, errs := s.errs ||| 0x10, errInfo := 0x0205 }) ∧
      (vn < 2 ^ 64 → t < 2 ^ 64 → 2 ^ 64 ≤ vd →
        exec .calcms s = .next { s with lastErr := 4, errs := s.errs ||| 0x10, errInfo := 0x0206 }) ∧
      (vn < 2 ^ 64 → vd = 0 → exec .calcms s = .next { s with lastErr := 4, errs := s.errs ||| 0x10, errInfo := 0x0300 }) ∧
      (vn < 2 ^ 64 → 0 < vd → vd < 2 ^ 64 → vn / vd < 8 ∨ 567 < vn / vd →
        exec .calcms s = .next { s with lastErr := 4, errs := s.errs ||| 0x10, errInfo := 0x0100 }) ∧
      (vn < 2 ^ 64 → 0 < vd → vd < 2 ^ 64 → 8 ≤ vn / vd → vn / vd ≤ 567 → ∀ k : Nat,
        b >>> k ≤ 2 ^ 30 → c >>> k ≤ 2 ^ 30 → (∀ m, m < k → 2 ^ 30 < b >>> m ∨ 2 ^ 30 < c >>> m) →
        exec .calcms s = .next { s with msA := BitVec.ofNat 16 (vn / vd), msB := BitVec.ofNat 32 (b >>> k),
                                        msC := BitVec.ofNat 32 (c >>> k), msR := BitVec.ofNat 8 (2 ^ j),
                                        unset := settle [.msA, .msB, .msC, .msR] s.unset, lastErr := 0 })))

/-- A CALCMS that ends with no cause: a in 8..567, the r the search ends with, 1 <= c <= 2^30, b <= c; the rate is unchanged.
Derived from R186, R188, R191. The search looks at the integer part in the register, so a rate that is not reduced (R_NUM not
below R_DEN) with MS_DBL = 0 may be doubled once although its value is 5,000,000 or more. -/
def Obligations.CalcmsResultIsInRange : Prop :=
  ∀ s t : State, exec .calcms s = .next t → t.lastErr = 0 →
    8 ≤ t.msA.toNat ∧ t.msA.toNat ≤ 567 ∧ t.msR ∈ [1, 2, 4, 8, 16, 32] ∧
    t.msB.toNat ≤ t.msC.toNat ∧ 1 ≤ t.msC.toNat ∧ t.msC.toNat ≤ 2 ^ 30 ∧
    t = { s with msA := t.msA, msB := t.msB, msC := t.msC, msR := t.msR, unset := t.unset, lastErr := 0 } ∧
    (∀ x : ℚ, x = ((s.rInt.toNat : ℚ) + s.rNum.toNat / s.rDen.toNat) * (if s.msDbl = 1 then 2 else 1) →
      (5000000 ≤ x * t.msR.toNat ∨ t.msR = 32) ∧
      (t.msR = 1 ∨ x * t.msR.toNat < 10000000 ∨ (s.msDbl = 0 ∧ t.msR = 2))) ∧
    (s.msDbl = 0 → (t.msR = 1 ↔ 5000000 ≤ s.rInt.toNat))

/-- CALCMS is exact when nothing was shrunk (c at most 2^30 after reduce): a + b/c = F_VCO / (rate * r'), b/c in lowest terms.
Derived from R193, R186, R191. -/
def Obligations.CalcmsIsExactWithoutShrink : Prop :=
  ∀ (s t : State) (q : ℚ), exec .calcms s = .next t → t.lastErr = 0 →
    q = 2534400000 / (((s.rInt.toNat : ℚ) + s.rNum.toNat / s.rDen.toNat) * (t.msR.toNat * (if s.msDbl = 1 then 2 else 1))) →
    q.den ≤ 2 ^ 30 →
    (t.msA.toNat : ℚ) + t.msB.toNat / t.msC.toNat = q ∧ t.msC.toNat = q.den ∧
    t.msB.toNat < t.msC.toNat ∧ Nat.gcd t.msB.toNat t.msC.toNat = 1 ∧ (t.msB = 0 → t.msC = 1)

/-- PACK: the three fields and the ten bytes of MSREG, or InvalidState sub-code 4. Formalises R196. `unset` is the model's record
of which registers hold no specified value (log 3, after R37's last sentence): a register written is taken off it. -/
def Obligations.PackResult : Prop :=
  ∀ (s : State) (q : Nat) (p1 p2 p3 : BitVec 32), q = 128 * s.msB.toNat / s.msC.toNat →
    p1 = BitVec.ofNat 32 (128 * s.msA.toNat + q - 512) → p2 = BitVec.ofNat 32 (128 * s.msB.toNat - q * s.msC.toNat) →
    p3 = s.msC →
    exec .pack s =
      if s.msA.toNat < 8 ∨ 567 < s.msA.toNat then
        .next { s with lastErr := 6, errs := s.errs ||| 0x40, errInfo := 0x0400 }
      else if s.msC = 0 ∨ 2 ^ 30 ≤ s.msC.toNat then
        .next { s with lastErr := 6, errs := s.errs ||| 0x40, errInfo := 0x0401 }
      else if s.msC.toNat ≤ s.msB.toNat then
        .next { s with lastErr := 6, errs := s.errs ||| 0x40, errInfo := 0x0402 }
      else .next { s with
        msP1 := p1, msP2 := p2, msP3 := p3, unset := settle [.msP1, .msP2, .msP3] s.unset, lastErr := 0,
        mem := Memory.writeBytes s.mem 0x20
          [p1.extractLsb' 0 8, p1.extractLsb' 8 8, p2.extractLsb' 0 6 ++ p1.extractLsb' 16 2, p2.extractLsb' 6 8,
           p2.extractLsb' 14 8, p2.extractLsb' 22 8, p3.extractLsb' 0 8, p3.extractLsb' 8 8, p3.extractLsb' 16 8,
           p3.extractLsb' 24 8] }

/-- p1 = floor(128(ac+b)/c) - 512, p2 = 128b mod c, p3 = c, and every field fits. Formalises R194. -/
def Obligations.PackedFieldsAreTheFormulas : Prop :=
  ∀ s t : State, exec .pack s = .next t → t.lastErr = 0 →
    t.msP1.toNat + 512 = 128 * (s.msA.toNat * s.msC.toNat + s.msB.toNat) / s.msC.toNat ∧
    t.msP2.toNat = 128 * s.msB.toNat % s.msC.toNat ∧ t.msP3 = s.msC ∧
    t.msP2.toNat + 128 * s.msB.toNat / s.msC.toNat * s.msC.toNat = 128 * s.msB.toNat ∧
    t.msP1.toNat + 512 = 128 * s.msA.toNat + 128 * s.msB.toNat / s.msC.toNat ∧
    128 * s.msB.toNat / s.msC.toNat ≤ 127 ∧
    512 ≤ t.msP1.toNat ∧ t.msP1.toNat ≤ 72191 ∧ t.msP2.toNat < s.msC.toNat ∧
    128 * (s.msA.toNat * s.msC.toNat + s.msB.toNat) < 2 ^ 47

/-- UNPACK: the fields of the image and a, b, c by the inverse formulas, or InvalidState sub-code 5. Formalises R200. `unset` is
the model's record of which registers hold no specified value (log 3, after R37's last sentence): a register written is taken
off it. -/
def Obligations.UnpackResult : Prop :=
  ∀ (s : State) (m : Nat → Byte) (p1 p2 p3 : Nat), (∀ i, i < 10 → Memory.read s.mem (0x20 + i) = some (m i)) →
    p1 = (((m 2).toNat &&& 0x03) <<< 16) ||| ((m 1).toNat <<< 8) ||| (m 0).toNat →
    p2 = ((m 5).toNat <<< 22) ||| ((m 4).toNat <<< 14) ||| ((m 3).toNat <<< 6) ||| ((m 2).toNat >>> 2) →
    p3 = (((m 9).toNat &&& 0x3F) <<< 24) ||| ((m 8).toNat <<< 16) ||| ((m 7).toNat <<< 8) ||| (m 6).toNat →
    exec .unpack s =
      (if p3 = 0 then .next { s with lastErr := 6, errs := s.errs ||| 0x40, errInfo := 0x0500 }
      else .next { s with
        msP1 := BitVec.ofNat 32 p1, msP2 := BitVec.ofNat 32 p2, msP3 := BitVec.ofNat 32 p3,
        msA := BitVec.ofNat 16 ((p1 + 512) >>> 7), msC := BitVec.ofNat 32 p3,
        msB := BitVec.ofNat 32 ((((p1 + 512) &&& 0x7F) * p3 + p2) >>> 7),
        unset := settle [.msP1, .msP2, .msP3, .msA, .msB, .msC] s.unset, lastErr := 0 }) ∧
    (p1 + 512) >>> 7 ≤ 2051 ∧ (((p1 + 512) &&& 0x7F) * p3 + p2) >>> 7 < 2 ^ 30 ∧ p3 < 2 ^ 30

/-- PACK then UNPACK gives back a, b and c, and neither raises. Formalises R201. -/
def Obligations.PackUnpackRoundTrip : Prop :=
  ∀ s : State, 8 ≤ s.msA.toNat → s.msA.toNat ≤ 567 → 1 ≤ s.msC.toNat → s.msC.toNat < 2 ^ 30 → s.msB.toNat < s.msC.toNat →
    ∃ t u, exec .pack s = .next t ∧ exec .unpack t = .next u ∧ t.lastErr = 0 ∧ u.lastErr = 0 ∧
      u.msA = s.msA ∧ u.msB = s.msB ∧ u.msC = s.msC

/-- MSADDR: MS_BASE = 53 + 11*MS_IDX for index 0 to 3, InvalidState sub-code 6 otherwise. Formalises R205. `unset` is the model's
record of which registers hold no specified value (log 3, after R37's last sentence): a register written is taken off it. -/
def Obligations.MsaddrResult : Prop :=
  ∀ s : State, exec .msaddr s =
      if 4 ≤ s.msIdx.toNat then .next { s with lastErr := 6, errs := s.errs ||| 0x40, errInfo := 0x06#8 ++ s.msIdx }
      else .next { s with msBase := BitVec.ofNat 8 (53 + 11 * s.msIdx.toNat), unset := settle [.msBase] s.unset, lastErr := 0 }

/-- RENC: the r-divider register byte, or InvalidState sub-code 7. Formalises R207. `unset` is the model's record of which
registers hold no specified value (log 3, after R37's last sentence): a register written is taken off it. -/
def Obligations.RencResult : Prop :=
  ∀ s : State, exec .renc s =
      if s.msR = 1 then .next { s with msRreg := 0xC0, unset := settle [.msRreg] s.unset, lastErr := 0 }
      else if s.msR = 2 then .next { s with msRreg := 0xC4, unset := settle [.msRreg] s.unset, lastErr := 0 }
      else if s.msR = 4 then .next { s with msRreg := 0xC8, unset := settle [.msRreg] s.unset, lastErr := 0 }
      else if s.msR = 8 then .next { s with msRreg := 0xCC, unset := settle [.msRreg] s.unset, lastErr := 0 }
      else if s.msR = 16 then .next { s with msRreg := 0xD0, unset := settle [.msRreg] s.unset, lastErr := 0 }
      else if s.msR = 32 then .next { s with msRreg := 0xD4, unset := settle [.msRreg] s.unset, lastErr := 0 }
      else .next { s with lastErr := 6, errs := s.errs ||| 0x40, errInfo := 0x07#8 ++ s.msR }
end

