-- ==== Sys2Proof/Laws/Bytes.lean ====
section
/-! SUPPORT. Byte order: the value of a list of bytes and the bytes of a value undo each other (20_memory R62 to R64). -/

namespace Sys2Proof

@[simp] theorem leBytes_length (n v : Nat) : (leBytes n v).length = n := by
  induction n generalizing v with
  | zero => rfl
  | succ n ih => simp [leBytes, ih]

@[simp] theorem fieldBytes_length (e : Endian) (n v : Nat) : (fieldBytes e n v).length = n := by
  cases e <;> simp [fieldBytes]

@[simp] theorem Config.frameBytes_length (cfg : Config) (f : Frame) : (cfg.frameBytes f).length = cfg.frameLen := leBytes_length _ _

@[simp] theorem Config.frameBytes_std (f : Frame) : Config.std.frameBytes f = Sys2Proof.frameBytes f := rfl

@[simp] theorem frameBytes_length (f : Frame) : (frameBytes f).length = 16 := leBytes_length _ _

theorem leValue_lt (bs : List Byte) : leValue bs < 256 ^ bs.length := by
  induction bs with
  | nil => simp [leValue]
  | cons b bs ih =>
    have hb := b.isLt
    simp only [leValue, List.length_cons, pow_succ]
    omega

theorem leValue_leBytes (n v : Nat) : leValue (leBytes n v) = v % 256 ^ n := by
  induction n generalizing v with
  | zero => simp [leBytes, leValue, Nat.mod_one]
  | succ n ih =>
    have hp : 256 ^ (n + 1) = 256 * 256 ^ n := by rw [pow_succ, Nat.mul_comm]
    have hb : (BitVec.ofNat 8 v).toNat = v % 256 := by simp
    rw [leBytes, leValue, ih, hb, hp, Nat.mod_mul]

theorem leValue_leBytes_of_lt {n v : Nat} (h : v < 256 ^ n) : leValue (leBytes n v) = v := by
  rw [leValue_leBytes, Nat.mod_eq_of_lt h]

theorem leBytes_leValue (bs : List Byte) : leBytes bs.length (leValue bs) = bs := by
  induction bs with
  | nil => rfl
  | cons b bs ih =>
    have hb := b.isLt
    have h1 : (b.toNat + 256 * leValue bs) / 256 = leValue bs := by omega
    have h2 : BitVec.ofNat 8 (b.toNat + 256 * leValue bs) = b := by
      apply BitVec.eq_of_toNat_eq
      simp only [BitVec.toNat_ofNat]
      omega
    simp only [List.length_cons, leValue, leBytes, h1, h2, ih]

/-- A field laid down in a byte order is read back in the same byte order, whichever it is. -/
theorem fieldValue_fieldBytes {n v : Nat} (e : Endian) (h : v < 256 ^ n) : fieldValue e (fieldBytes e n v) = v := by
  cases e <;> simp [fieldValue, fieldBytes, leValue_leBytes_of_lt h]

theorem frameBytes_frameOfBytes {bs : List Byte} (h : bs.length = 16) : frameBytes (frameOfBytes bs) = bs := by
  have hlt := leValue_lt bs
  rw [h] at hlt
  have hv : leValue bs % 2 ^ 128 = leValue bs := Nat.mod_eq_of_lt (by simpa using hlt)
  unfold frameBytes Config.frameBytes frameOfBytes
  rw [BitVec.toNat_ofNat, hv]
  have hl := leBytes_leValue bs
  rw [h] at hl
  exact hl

theorem frameOfBytes_frameBytes (f : Frame) : frameOfBytes (frameBytes f) = f := by
  have hf := f.isLt
  apply BitVec.eq_of_toNat_eq
  unfold frameBytes Config.frameBytes frameOfBytes
  rw [leValue_leBytes_of_lt (lt_of_lt_of_eq hf (by decide)), BitVec.toNat_ofNat, Nat.mod_eq_of_lt hf]

/-- Byte i of the bytes of a value is its bits 8i+7:8i. -/
theorem leBytes_getElem? {n i : Nat} (v : Nat) (h : i < n) :
    (leBytes n v)[i]? = some (BitVec.ofNat 8 (v >>> (8 * i))) := by
  induction n generalizing v i with
  | zero => omega
  | succ n ih =>
    cases i with
    | zero => simp [leBytes]
    | succ i =>
      have h8 : 8 * (i + 1) = 8 + 8 * i := by omega
      simp only [leBytes, List.getElem?_cons_succ, ih _ (Nat.lt_of_succ_lt_succ h), h8, Nat.shiftRight_add,
        Nat.shiftRight_eq_div_pow v 8]

/-- Bit j of the value of a list of bytes. -/
theorem testBit_leValue_cons (b : Byte) (bs : List Byte) (j : Nat) :
    (leValue (b :: bs)).testBit j = if j < 8 then b.getLsbD j else (leValue bs).testBit (j - 8) := by
  have h : leValue (b :: bs) = 2 ^ 8 * leValue bs + b.toNat := by simp only [leValue]; omega
  rw [h, Nat.testBit_two_pow_mul_add _ b.isLt]
  rfl

/-- The bytes of a bit vector are its slices of eight bits, the lowest first. -/
theorem leBytes_toNat {w : Nat} (n : Nat) (v : BitVec w) :
    leBytes n v.toNat = (List.range n).map (fun i => v.extractLsb' (8 * i) 8) := by
  apply List.ext_getElem?
  intro i
  by_cases h : i < n
  · rw [leBytes_getElem? _ h]
    simp [h]
    apply BitVec.eq_of_toNat_eq
    simp [BitVec.extractLsb']
  · simp [h]

end Sys2Proof
end

