-- ==== Sys2Proof/Laws/Memory.lean ====
section
/-! SUPPORT. Buffer space: read after write, what a write leaves alone, and that every memory operation keeps the canonical form. -/

namespace Sys2Proof.Machine

@[simp] theorem Memory.read_write_same (m : Memory) (a : Nat) (b : Byte) : Memory.read (Memory.write m a b) a = some b := by
  induction m with
  | nil => simp [Memory.write, Memory.read]
  | cons c cs ih =>
    unfold Memory.write
    split_ifs with h1 h2
    · simp [Memory.read]
    · simp [Memory.read]
    · simp [Memory.read, h2, ih]

theorem Memory.read_write_other (m : Memory) {a x : Nat} (b : Byte) (h : x ≠ a) :
    Memory.read (Memory.write m a b) x = Memory.read m x := by
  induction m with
  | nil => simp [Memory.write, Memory.read, h.symm]
  | cons c cs ih =>
    unfold Memory.write
    split_ifs with h1 h2
    · simp [Memory.read, h.symm]
    · subst h2
      simp [Memory.read, h.symm]
    · simp [Memory.read, ih]

theorem Memory.read_writeBytes_outside (m : Memory) (a : Nat) (bs : List Byte) {x : Nat}
    (h : x < a ∨ a + bs.length ≤ x) : Memory.read (Memory.writeBytes m a bs) x = Memory.read m x := by
  induction bs generalizing m a with
  | nil => rfl
  | cons b bs ih =>
    simp only [List.length_cons] at h
    rw [Memory.writeBytes, ih _ _ (by omega), Memory.read_write_other _ _ (by omega)]

theorem Memory.read_writeBytes_inside (m : Memory) (a : Nat) (bs : List Byte) {i : Nat} (h : i < bs.length) :
    Memory.read (Memory.writeBytes m a bs) (a + i) = bs[i]? := by
  induction bs generalizing m a i with
  | nil => simp at h
  | cons b bs ih =>
    cases i with
    | zero =>
      rw [Memory.writeBytes, Memory.read_writeBytes_outside _ _ _ (by omega)]
      simp
    | succ i =>
      have ha : a + (i + 1) = a + 1 + i := by omega
      rw [Memory.writeBytes, ha, ih _ _ (by simpa using h)]
      simp

theorem Memory.wfFrom_write {lo : Nat} {m : Memory} (a : Nat) (b : Byte) (hm : Memory.wfFrom lo m = true) (hlo : lo ≤ a)
    (ha : a < bufSize) : Memory.wfFrom lo (Memory.write m a b) = true := by
  induction m generalizing lo with
  | nil => simp [Memory.write, Memory.wfFrom, hlo, ha]
  | cons c cs ih =>
    simp only [Memory.wfFrom, Bool.and_eq_true, decide_eq_true_eq] at hm
    obtain ⟨⟨h1, h2⟩, h3⟩ := hm
    unfold Memory.write
    split_ifs with h4 h5
    · simp [Memory.wfFrom, hlo, ha, h2, h3]
      omega
    · subst h5
      simp [Memory.wfFrom, h1, h2, h3]
    · simp [Memory.wfFrom, h1, h2, ih h3 (by omega)]

/-- A write inside the buffer space keeps the canonical form. -/
theorem Memory.wf_write {m : Memory} (a : Nat) (b : Byte) (hm : Memory.wf m = true) (ha : a < bufSize) :
    Memory.wf (Memory.write m a b) = true := Memory.wfFrom_write a b hm (Nat.zero_le a) ha

theorem Memory.wf_writeBytes {m : Memory} (a : Nat) (bs : List Byte) (hm : Memory.wf m = true)
    (ha : a + bs.length ≤ bufSize) : Memory.wf (Memory.writeBytes m a bs) = true := by
  induction bs generalizing m a with
  | nil => exact hm
  | cons b bs ih =>
    simp only [List.length_cons] at ha
    exact ih (a + 1) (Memory.wf_write a b hm (by omega)) (by omega)

theorem Memory.wf_empty : Memory.wf [] = true := rfl

theorem Memory.read_none_of_wfFrom {lo : Nat} {m : Memory} {x : Nat} (hm : Memory.wfFrom lo m = true) (hx : x < lo) :
    Memory.read m x = none := by
  induction m generalizing lo with
  | nil => rfl
  | cons c cs ih =>
    simp only [Memory.wfFrom, Bool.and_eq_true, decide_eq_true_eq] at hm
    obtain ⟨⟨h1, _⟩, h3⟩ := hm
    have hne : c.1 ≠ x := by omega
    simp [Memory.read, hne, ih h3 (by omega)]

/-- Two memories in canonical form that read the same everywhere are the same list: equal memories are equal data. -/
theorem Memory.ext_of_wfFrom {lo : Nat} {m n : Memory} (hm : Memory.wfFrom lo m = true) (hn : Memory.wfFrom lo n = true)
    (h : ∀ x, Memory.read m x = Memory.read n x) : m = n := by
  induction m generalizing lo n with
  | nil =>
    cases n with
    | nil => rfl
    | cons d ds => simpa [Memory.read] using h d.1
  | cons c cs ih =>
    cases n with
    | nil => simpa [Memory.read] using h c.1
    | cons d ds =>
      simp only [Memory.wfFrom, Bool.and_eq_true, decide_eq_true_eq] at hm hn
      obtain ⟨⟨_, _⟩, h3⟩ := hm
      obtain ⟨⟨_, _⟩, g3⟩ := hn
      have hcd : c.1 = d.1 := by
        by_contra hne
        rcases Nat.lt_or_gt_of_ne hne with hlt | hlt
        · have hc := h c.1
          simp [Memory.read, Ne.symm hne, Memory.read_none_of_wfFrom g3 (show c.1 < d.1 + 1 by omega)] at hc
        · have hd := h d.1
          simp [Memory.read, hne, Memory.read_none_of_wfFrom h3 (show d.1 < c.1 + 1 by omega)] at hd
      have hval : c.2 = d.2 := by
        have hc := h c.1
        simpa [Memory.read, hcd] using hc
      have hrest : cs = ds := by
        refine ih h3 (hcd ▸ g3) (fun x => ?_)
        by_cases hx : x = c.1
        · rw [Memory.read_none_of_wfFrom h3 (by omega), Memory.read_none_of_wfFrom g3 (by omega)]
        · have hxd : ¬ c.1 = x := fun e => hx e.symm
          have hxd' : ¬ d.1 = x := fun e => hx (by omega)
          simpa [Memory.read, hxd, hxd'] using h x
      rw [hrest, Prod.ext hcd hval]

/-- A command's read of bytes that have all been written. -/
theorem fetchBytes_of_read {m : Memory} {bs : List Byte} {a : Nat}
    (h : ∀ i, i < bs.length → Memory.read m (a + i) = bs[i]?) : fetchBytes m a bs.length = .ok bs := by
  induction bs generalizing a with
  | nil => rfl
  | cons b bs ih =>
    have h0 : Memory.read m a = some b := by simpa using h 0 (by simp)
    have hrest : fetchBytes m (a + 1) bs.length = .ok bs := by
      refine ih (fun i hi => ?_)
      have := h (i + 1) (by simpa using hi)
      rwa [show a + 1 + i = a + (i + 1) by omega, ← List.getElem?_cons_succ (a := b)]
    simp only [List.length_cons, fetchBytes, fetchByte, h0, hrest]
    rfl

/-- Bytes just written are the bytes a command fetches. -/
theorem fetchBytes_writeBytes (m : Memory) (a : Nat) (bs : List Byte) :
    fetchBytes (Memory.writeBytes m a bs) a bs.length = .ok bs :=
  fetchBytes_of_read (fun _ hi => Memory.read_writeBytes_inside m a bs hi)

end Sys2Proof.Machine
end

