-- ==== Sys2Proof/Laws/State.lean ====
section
/-! SUPPORT. What each named update of the block and of the state leaves in each field: one lemma a field, true by rfl.
A lemma's name is the update's and the field's. Then the registers that hold no specified value: which a draw changes. -/

namespace Sys2Proof.Machine

@[simp] theorem recordCause_lastErr (c : Cause) (sub val : Byte) (s : Block) : (recordCause c sub val s).lastErr = causeCode c := rfl
@[simp] theorem recordCause_errs (c : Cause) (sub val : Byte) (s : Block) : (recordCause c sub val s).errs = s.errs ||| stickyBit c := rfl
@[simp] theorem recordCause_errInfo (c : Cause) (sub val : Byte) (s : Block) : (recordCause c sub val s).errInfo = errInfoOf sub val := rfl
@[simp] theorem recordCause_fTid (c : Cause) (sub val : Byte) (s : Block) : (recordCause c sub val s).fTid = s.fTid := rfl
@[simp] theorem recordCause_fFlags (c : Cause) (sub val : Byte) (s : Block) : (recordCause c sub val s).fFlags = s.fFlags := rfl
@[simp] theorem recordCause_fAddr (c : Cause) (sub val : Byte) (s : Block) : (recordCause c sub val s).fAddr = s.fAddr := rfl
@[simp] theorem recordCause_fData (c : Cause) (sub val : Byte) (s : Block) : (recordCause c sub val s).fData = s.fData := rfl
@[simp] theorem recordCause_pTid (c : Cause) (sub val : Byte) (s : Block) : (recordCause c sub val s).pTid = s.pTid := rfl
@[simp] theorem recordCause_pFlags (c : Cause) (sub val : Byte) (s : Block) : (recordCause c sub val s).pFlags = s.pFlags := rfl
@[simp] theorem recordCause_pAddr (c : Cause) (sub val : Byte) (s : Block) : (recordCause c sub val s).pAddr = s.pAddr := rfl
@[simp] theorem recordCause_pData (c : Cause) (sub val : Byte) (s : Block) : (recordCause c sub val s).pData = s.pData := rfl
@[simp] theorem recordCause_pSuccess (c : Cause) (sub val : Byte) (s : Block) : (recordCause c sub val s).pSuccess = s.pSuccess := rfl
@[simp] theorem recordCause_rInt (c : Cause) (sub val : Byte) (s : Block) : (recordCause c sub val s).rInt = s.rInt := rfl
@[simp] theorem recordCause_rNum (c : Cause) (sub val : Byte) (s : Block) : (recordCause c sub val s).rNum = s.rNum := rfl
@[simp] theorem recordCause_rDen (c : Cause) (sub val : Byte) (s : Block) : (recordCause c sub val s).rDen = s.rDen := rfl
@[simp] theorem recordCause_msIdx (c : Cause) (sub val : Byte) (s : Block) : (recordCause c sub val s).msIdx = s.msIdx := rfl
@[simp] theorem recordCause_msDbl (c : Cause) (sub val : Byte) (s : Block) : (recordCause c sub val s).msDbl = s.msDbl := rfl
@[simp] theorem recordCause_msA (c : Cause) (sub val : Byte) (s : Block) : (recordCause c sub val s).msA = s.msA := rfl
@[simp] theorem recordCause_msB (c : Cause) (sub val : Byte) (s : Block) : (recordCause c sub val s).msB = s.msB := rfl
@[simp] theorem recordCause_msC (c : Cause) (sub val : Byte) (s : Block) : (recordCause c sub val s).msC = s.msC := rfl
@[simp] theorem recordCause_msR (c : Cause) (sub val : Byte) (s : Block) : (recordCause c sub val s).msR = s.msR := rfl
@[simp] theorem recordCause_msP1 (c : Cause) (sub val : Byte) (s : Block) : (recordCause c sub val s).msP1 = s.msP1 := rfl
@[simp] theorem recordCause_msP2 (c : Cause) (sub val : Byte) (s : Block) : (recordCause c sub val s).msP2 = s.msP2 := rfl
@[simp] theorem recordCause_msP3 (c : Cause) (sub val : Byte) (s : Block) : (recordCause c sub val s).msP3 = s.msP3 := rfl
@[simp] theorem recordCause_msBase (c : Cause) (sub val : Byte) (s : Block) : (recordCause c sub val s).msBase = s.msBase := rfl
@[simp] theorem recordCause_msRreg (c : Cause) (sub val : Byte) (s : Block) : (recordCause c sub val s).msRreg = s.msRreg := rfl
@[simp] theorem recordCause_mem (c : Cause) (sub val : Byte) (s : Block) : (recordCause c sub val s).mem = s.mem := rfl
@[simp] theorem recordCause_unset (c : Cause) (sub val : Byte) (s : Block) : (recordCause c sub val s).unset = s.unset := rfl
@[simp] theorem recordCause_draws (c : Cause) (sub val : Byte) (s : Block) : (recordCause c sub val s).draws = s.draws := rfl

@[simp] theorem clearErrors_lastErr (s : Block) : (clearErrors s).lastErr = 0 := rfl
@[simp] theorem clearErrors_errs (s : Block) : (clearErrors s).errs = 0 := rfl
@[simp] theorem clearErrors_errInfo (s : Block) : (clearErrors s).errInfo = 0 := rfl
@[simp] theorem clearErrors_fTid (s : Block) : (clearErrors s).fTid = s.fTid := rfl
@[simp] theorem clearErrors_fFlags (s : Block) : (clearErrors s).fFlags = s.fFlags := rfl
@[simp] theorem clearErrors_fAddr (s : Block) : (clearErrors s).fAddr = s.fAddr := rfl
@[simp] theorem clearErrors_fData (s : Block) : (clearErrors s).fData = s.fData := rfl
@[simp] theorem clearErrors_pTid (s : Block) : (clearErrors s).pTid = s.pTid := rfl
@[simp] theorem clearErrors_pFlags (s : Block) : (clearErrors s).pFlags = s.pFlags := rfl
@[simp] theorem clearErrors_pAddr (s : Block) : (clearErrors s).pAddr = s.pAddr := rfl
@[simp] theorem clearErrors_pData (s : Block) : (clearErrors s).pData = s.pData := rfl
@[simp] theorem clearErrors_pSuccess (s : Block) : (clearErrors s).pSuccess = s.pSuccess := rfl
@[simp] theorem clearErrors_rInt (s : Block) : (clearErrors s).rInt = s.rInt := rfl
@[simp] theorem clearErrors_rNum (s : Block) : (clearErrors s).rNum = s.rNum := rfl
@[simp] theorem clearErrors_rDen (s : Block) : (clearErrors s).rDen = s.rDen := rfl
@[simp] theorem clearErrors_msIdx (s : Block) : (clearErrors s).msIdx = s.msIdx := rfl
@[simp] theorem clearErrors_msDbl (s : Block) : (clearErrors s).msDbl = s.msDbl := rfl
@[simp] theorem clearErrors_msA (s : Block) : (clearErrors s).msA = s.msA := rfl
@[simp] theorem clearErrors_msB (s : Block) : (clearErrors s).msB = s.msB := rfl
@[simp] theorem clearErrors_msC (s : Block) : (clearErrors s).msC = s.msC := rfl
@[simp] theorem clearErrors_msR (s : Block) : (clearErrors s).msR = s.msR := rfl
@[simp] theorem clearErrors_msP1 (s : Block) : (clearErrors s).msP1 = s.msP1 := rfl
@[simp] theorem clearErrors_msP2 (s : Block) : (clearErrors s).msP2 = s.msP2 := rfl
@[simp] theorem clearErrors_msP3 (s : Block) : (clearErrors s).msP3 = s.msP3 := rfl
@[simp] theorem clearErrors_msBase (s : Block) : (clearErrors s).msBase = s.msBase := rfl
@[simp] theorem clearErrors_msRreg (s : Block) : (clearErrors s).msRreg = s.msRreg := rfl
@[simp] theorem clearErrors_mem (s : Block) : (clearErrors s).mem = s.mem := rfl
@[simp] theorem clearErrors_unset (s : Block) : (clearErrors s).unset = s.unset := rfl
@[simp] theorem clearErrors_draws (s : Block) : (clearErrors s).draws = s.draws := rfl

@[simp] theorem endNormally_lastErr (s : Block) : (endNormally s).lastErr = 0 := rfl
@[simp] theorem endNormally_errs (s : Block) : (endNormally s).errs = s.errs := rfl
@[simp] theorem endNormally_errInfo (s : Block) : (endNormally s).errInfo = s.errInfo := rfl
@[simp] theorem endNormally_fTid (s : Block) : (endNormally s).fTid = s.fTid := rfl
@[simp] theorem endNormally_fFlags (s : Block) : (endNormally s).fFlags = s.fFlags := rfl
@[simp] theorem endNormally_fAddr (s : Block) : (endNormally s).fAddr = s.fAddr := rfl
@[simp] theorem endNormally_fData (s : Block) : (endNormally s).fData = s.fData := rfl
@[simp] theorem endNormally_pTid (s : Block) : (endNormally s).pTid = s.pTid := rfl
@[simp] theorem endNormally_pFlags (s : Block) : (endNormally s).pFlags = s.pFlags := rfl
@[simp] theorem endNormally_pAddr (s : Block) : (endNormally s).pAddr = s.pAddr := rfl
@[simp] theorem endNormally_pData (s : Block) : (endNormally s).pData = s.pData := rfl
@[simp] theorem endNormally_pSuccess (s : Block) : (endNormally s).pSuccess = s.pSuccess := rfl
@[simp] theorem endNormally_rInt (s : Block) : (endNormally s).rInt = s.rInt := rfl
@[simp] theorem endNormally_rNum (s : Block) : (endNormally s).rNum = s.rNum := rfl
@[simp] theorem endNormally_rDen (s : Block) : (endNormally s).rDen = s.rDen := rfl
@[simp] theorem endNormally_msIdx (s : Block) : (endNormally s).msIdx = s.msIdx := rfl
@[simp] theorem endNormally_msDbl (s : Block) : (endNormally s).msDbl = s.msDbl := rfl
@[simp] theorem endNormally_msA (s : Block) : (endNormally s).msA = s.msA := rfl
@[simp] theorem endNormally_msB (s : Block) : (endNormally s).msB = s.msB := rfl
@[simp] theorem endNormally_msC (s : Block) : (endNormally s).msC = s.msC := rfl
@[simp] theorem endNormally_msR (s : Block) : (endNormally s).msR = s.msR := rfl
@[simp] theorem endNormally_msP1 (s : Block) : (endNormally s).msP1 = s.msP1 := rfl
@[simp] theorem endNormally_msP2 (s : Block) : (endNormally s).msP2 = s.msP2 := rfl
@[simp] theorem endNormally_msP3 (s : Block) : (endNormally s).msP3 = s.msP3 := rfl
@[simp] theorem endNormally_msBase (s : Block) : (endNormally s).msBase = s.msBase := rfl
@[simp] theorem endNormally_msRreg (s : Block) : (endNormally s).msRreg = s.msRreg := rfl
@[simp] theorem endNormally_mem (s : Block) : (endNormally s).mem = s.mem := rfl
@[simp] theorem endNormally_unset (s : Block) : (endNormally s).unset = s.unset := rfl
@[simp] theorem endNormally_draws (s : Block) : (endNormally s).draws = s.draws := rfl

@[simp] theorem storeBytes_lastErr (a : Nat) (bs : List Byte) (s : Block) : (storeBytes a bs s).lastErr = s.lastErr := rfl
@[simp] theorem storeBytes_errs (a : Nat) (bs : List Byte) (s : Block) : (storeBytes a bs s).errs = s.errs := rfl
@[simp] theorem storeBytes_errInfo (a : Nat) (bs : List Byte) (s : Block) : (storeBytes a bs s).errInfo = s.errInfo := rfl
@[simp] theorem storeBytes_fTid (a : Nat) (bs : List Byte) (s : Block) : (storeBytes a bs s).fTid = s.fTid := rfl
@[simp] theorem storeBytes_fFlags (a : Nat) (bs : List Byte) (s : Block) : (storeBytes a bs s).fFlags = s.fFlags := rfl
@[simp] theorem storeBytes_fAddr (a : Nat) (bs : List Byte) (s : Block) : (storeBytes a bs s).fAddr = s.fAddr := rfl
@[simp] theorem storeBytes_fData (a : Nat) (bs : List Byte) (s : Block) : (storeBytes a bs s).fData = s.fData := rfl
@[simp] theorem storeBytes_pTid (a : Nat) (bs : List Byte) (s : Block) : (storeBytes a bs s).pTid = s.pTid := rfl
@[simp] theorem storeBytes_pFlags (a : Nat) (bs : List Byte) (s : Block) : (storeBytes a bs s).pFlags = s.pFlags := rfl
@[simp] theorem storeBytes_pAddr (a : Nat) (bs : List Byte) (s : Block) : (storeBytes a bs s).pAddr = s.pAddr := rfl
@[simp] theorem storeBytes_pData (a : Nat) (bs : List Byte) (s : Block) : (storeBytes a bs s).pData = s.pData := rfl
@[simp] theorem storeBytes_pSuccess (a : Nat) (bs : List Byte) (s : Block) : (storeBytes a bs s).pSuccess = s.pSuccess := rfl
@[simp] theorem storeBytes_rInt (a : Nat) (bs : List Byte) (s : Block) : (storeBytes a bs s).rInt = s.rInt := rfl
@[simp] theorem storeBytes_rNum (a : Nat) (bs : List Byte) (s : Block) : (storeBytes a bs s).rNum = s.rNum := rfl
@[simp] theorem storeBytes_rDen (a : Nat) (bs : List Byte) (s : Block) : (storeBytes a bs s).rDen = s.rDen := rfl
@[simp] theorem storeBytes_msIdx (a : Nat) (bs : List Byte) (s : Block) : (storeBytes a bs s).msIdx = s.msIdx := rfl
@[simp] theorem storeBytes_msDbl (a : Nat) (bs : List Byte) (s : Block) : (storeBytes a bs s).msDbl = s.msDbl := rfl
@[simp] theorem storeBytes_msA (a : Nat) (bs : List Byte) (s : Block) : (storeBytes a bs s).msA = s.msA := rfl
@[simp] theorem storeBytes_msB (a : Nat) (bs : List Byte) (s : Block) : (storeBytes a bs s).msB = s.msB := rfl
@[simp] theorem storeBytes_msC (a : Nat) (bs : List Byte) (s : Block) : (storeBytes a bs s).msC = s.msC := rfl
@[simp] theorem storeBytes_msR (a : Nat) (bs : List Byte) (s : Block) : (storeBytes a bs s).msR = s.msR := rfl
@[simp] theorem storeBytes_msP1 (a : Nat) (bs : List Byte) (s : Block) : (storeBytes a bs s).msP1 = s.msP1 := rfl
@[simp] theorem storeBytes_msP2 (a : Nat) (bs : List Byte) (s : Block) : (storeBytes a bs s).msP2 = s.msP2 := rfl
@[simp] theorem storeBytes_msP3 (a : Nat) (bs : List Byte) (s : Block) : (storeBytes a bs s).msP3 = s.msP3 := rfl
@[simp] theorem storeBytes_msBase (a : Nat) (bs : List Byte) (s : Block) : (storeBytes a bs s).msBase = s.msBase := rfl
@[simp] theorem storeBytes_msRreg (a : Nat) (bs : List Byte) (s : Block) : (storeBytes a bs s).msRreg = s.msRreg := rfl
@[simp] theorem storeBytes_mem (a : Nat) (bs : List Byte) (s : Block) : (storeBytes a bs s).mem = Memory.writeBytes s.mem a bs := rfl
@[simp] theorem storeBytes_unset (a : Nat) (bs : List Byte) (s : Block) : (storeBytes a bs s).unset = s.unset := rfl
@[simp] theorem storeBytes_draws (a : Nat) (bs : List Byte) (s : Block) : (storeBytes a bs s).draws = s.draws := rfl

@[simp] theorem deliverFrame_lastErr (cfg : Config) (f : Frame) (s : Block) : (deliverFrame cfg f s).lastErr = s.lastErr := rfl
@[simp] theorem deliverFrame_errs (cfg : Config) (f : Frame) (s : Block) : (deliverFrame cfg f s).errs = s.errs := rfl
@[simp] theorem deliverFrame_errInfo (cfg : Config) (f : Frame) (s : Block) : (deliverFrame cfg f s).errInfo = s.errInfo := rfl
@[simp] theorem deliverFrame_fTid (cfg : Config) (f : Frame) (s : Block) : (deliverFrame cfg f s).fTid = s.fTid := rfl
@[simp] theorem deliverFrame_fFlags (cfg : Config) (f : Frame) (s : Block) : (deliverFrame cfg f s).fFlags = s.fFlags := rfl
@[simp] theorem deliverFrame_fAddr (cfg : Config) (f : Frame) (s : Block) : (deliverFrame cfg f s).fAddr = s.fAddr := rfl
@[simp] theorem deliverFrame_fData (cfg : Config) (f : Frame) (s : Block) : (deliverFrame cfg f s).fData = s.fData := rfl
@[simp] theorem deliverFrame_pTid (cfg : Config) (f : Frame) (s : Block) : (deliverFrame cfg f s).pTid = s.pTid := rfl
@[simp] theorem deliverFrame_pFlags (cfg : Config) (f : Frame) (s : Block) : (deliverFrame cfg f s).pFlags = s.pFlags := rfl
@[simp] theorem deliverFrame_pAddr (cfg : Config) (f : Frame) (s : Block) : (deliverFrame cfg f s).pAddr = s.pAddr := rfl
@[simp] theorem deliverFrame_pData (cfg : Config) (f : Frame) (s : Block) : (deliverFrame cfg f s).pData = s.pData := rfl
@[simp] theorem deliverFrame_pSuccess (cfg : Config) (f : Frame) (s : Block) : (deliverFrame cfg f s).pSuccess = s.pSuccess := rfl
@[simp] theorem deliverFrame_rInt (cfg : Config) (f : Frame) (s : Block) : (deliverFrame cfg f s).rInt = s.rInt := rfl
@[simp] theorem deliverFrame_rNum (cfg : Config) (f : Frame) (s : Block) : (deliverFrame cfg f s).rNum = s.rNum := rfl
@[simp] theorem deliverFrame_rDen (cfg : Config) (f : Frame) (s : Block) : (deliverFrame cfg f s).rDen = s.rDen := rfl
@[simp] theorem deliverFrame_msIdx (cfg : Config) (f : Frame) (s : Block) : (deliverFrame cfg f s).msIdx = s.msIdx := rfl
@[simp] theorem deliverFrame_msDbl (cfg : Config) (f : Frame) (s : Block) : (deliverFrame cfg f s).msDbl = s.msDbl := rfl
@[simp] theorem deliverFrame_msA (cfg : Config) (f : Frame) (s : Block) : (deliverFrame cfg f s).msA = s.msA := rfl
@[simp] theorem deliverFrame_msB (cfg : Config) (f : Frame) (s : Block) : (deliverFrame cfg f s).msB = s.msB := rfl
@[simp] theorem deliverFrame_msC (cfg : Config) (f : Frame) (s : Block) : (deliverFrame cfg f s).msC = s.msC := rfl
@[simp] theorem deliverFrame_msR (cfg : Config) (f : Frame) (s : Block) : (deliverFrame cfg f s).msR = s.msR := rfl
@[simp] theorem deliverFrame_msP1 (cfg : Config) (f : Frame) (s : Block) : (deliverFrame cfg f s).msP1 = s.msP1 := rfl
@[simp] theorem deliverFrame_msP2 (cfg : Config) (f : Frame) (s : Block) : (deliverFrame cfg f s).msP2 = s.msP2 := rfl
@[simp] theorem deliverFrame_msP3 (cfg : Config) (f : Frame) (s : Block) : (deliverFrame cfg f s).msP3 = s.msP3 := rfl
@[simp] theorem deliverFrame_msBase (cfg : Config) (f : Frame) (s : Block) : (deliverFrame cfg f s).msBase = s.msBase := rfl
@[simp] theorem deliverFrame_msRreg (cfg : Config) (f : Frame) (s : Block) : (deliverFrame cfg f s).msRreg = s.msRreg := rfl
@[simp] theorem deliverFrame_mem (cfg : Config) (f : Frame) (s : Block) : (deliverFrame cfg f s).mem = Memory.writeBytes s.mem rxfBase (cfg.frameBytes f) := rfl
@[simp] theorem deliverFrame_unset (cfg : Config) (f : Frame) (s : Block) : (deliverFrame cfg f s).unset = s.unset := rfl
@[simp] theorem deliverFrame_draws (cfg : Config) (f : Frame) (s : Block) : (deliverFrame cfg f s).draws = s.draws := rfl

@[simp] theorem withParsed_lastErr (p : Parsed) (s : Block) : (withParsed p s).lastErr = s.lastErr := rfl
@[simp] theorem withParsed_errs (p : Parsed) (s : Block) : (withParsed p s).errs = s.errs := rfl
@[simp] theorem withParsed_errInfo (p : Parsed) (s : Block) : (withParsed p s).errInfo = s.errInfo := rfl
@[simp] theorem withParsed_fTid (p : Parsed) (s : Block) : (withParsed p s).fTid = s.fTid := rfl
@[simp] theorem withParsed_fFlags (p : Parsed) (s : Block) : (withParsed p s).fFlags = s.fFlags := rfl
@[simp] theorem withParsed_fAddr (p : Parsed) (s : Block) : (withParsed p s).fAddr = s.fAddr := rfl
@[simp] theorem withParsed_fData (p : Parsed) (s : Block) : (withParsed p s).fData = s.fData := rfl
@[simp] theorem withParsed_pTid (p : Parsed) (s : Block) : (withParsed p s).pTid = p.tid := rfl
@[simp] theorem withParsed_pFlags (p : Parsed) (s : Block) : (withParsed p s).pFlags = p.flags := rfl
@[simp] theorem withParsed_pAddr (p : Parsed) (s : Block) : (withParsed p s).pAddr = BitVec.ofNat 32 p.addr := rfl
@[simp] theorem withParsed_pData (p : Parsed) (s : Block) : (withParsed p s).pData = BitVec.ofNat 64 p.data := rfl
@[simp] theorem withParsed_pSuccess (p : Parsed) (s : Block) : (withParsed p s).pSuccess = successFlag p.flags := rfl
@[simp] theorem withParsed_rInt (p : Parsed) (s : Block) : (withParsed p s).rInt = s.rInt := rfl
@[simp] theorem withParsed_rNum (p : Parsed) (s : Block) : (withParsed p s).rNum = s.rNum := rfl
@[simp] theorem withParsed_rDen (p : Parsed) (s : Block) : (withParsed p s).rDen = s.rDen := rfl
@[simp] theorem withParsed_msIdx (p : Parsed) (s : Block) : (withParsed p s).msIdx = s.msIdx := rfl
@[simp] theorem withParsed_msDbl (p : Parsed) (s : Block) : (withParsed p s).msDbl = s.msDbl := rfl
@[simp] theorem withParsed_msA (p : Parsed) (s : Block) : (withParsed p s).msA = s.msA := rfl
@[simp] theorem withParsed_msB (p : Parsed) (s : Block) : (withParsed p s).msB = s.msB := rfl
@[simp] theorem withParsed_msC (p : Parsed) (s : Block) : (withParsed p s).msC = s.msC := rfl
@[simp] theorem withParsed_msR (p : Parsed) (s : Block) : (withParsed p s).msR = s.msR := rfl
@[simp] theorem withParsed_msP1 (p : Parsed) (s : Block) : (withParsed p s).msP1 = s.msP1 := rfl
@[simp] theorem withParsed_msP2 (p : Parsed) (s : Block) : (withParsed p s).msP2 = s.msP2 := rfl
@[simp] theorem withParsed_msP3 (p : Parsed) (s : Block) : (withParsed p s).msP3 = s.msP3 := rfl
@[simp] theorem withParsed_msBase (p : Parsed) (s : Block) : (withParsed p s).msBase = s.msBase := rfl
@[simp] theorem withParsed_msRreg (p : Parsed) (s : Block) : (withParsed p s).msRreg = s.msRreg := rfl
@[simp] theorem withParsed_mem (p : Parsed) (s : Block) : (withParsed p s).mem = s.mem := rfl
@[simp] theorem withParsed_unset (p : Parsed) (s : Block) : (withParsed p s).unset = settle [.pTid, .pFlags, .pAddr, .pData, .pSuccess] s.unset := rfl
@[simp] theorem withParsed_draws (p : Parsed) (s : Block) : (withParsed p s).draws = s.draws := rfl

@[simp] theorem withRate_lastErr (x : Rate) (s : Block) : (withRate x s).lastErr = s.lastErr := rfl
@[simp] theorem withRate_errs (x : Rate) (s : Block) : (withRate x s).errs = s.errs := rfl
@[simp] theorem withRate_errInfo (x : Rate) (s : Block) : (withRate x s).errInfo = s.errInfo := rfl
@[simp] theorem withRate_fTid (x : Rate) (s : Block) : (withRate x s).fTid = s.fTid := rfl
@[simp] theorem withRate_fFlags (x : Rate) (s : Block) : (withRate x s).fFlags = s.fFlags := rfl
@[simp] theorem withRate_fAddr (x : Rate) (s : Block) : (withRate x s).fAddr = s.fAddr := rfl
@[simp] theorem withRate_fData (x : Rate) (s : Block) : (withRate x s).fData = s.fData := rfl
@[simp] theorem withRate_pTid (x : Rate) (s : Block) : (withRate x s).pTid = s.pTid := rfl
@[simp] theorem withRate_pFlags (x : Rate) (s : Block) : (withRate x s).pFlags = s.pFlags := rfl
@[simp] theorem withRate_pAddr (x : Rate) (s : Block) : (withRate x s).pAddr = s.pAddr := rfl
@[simp] theorem withRate_pData (x : Rate) (s : Block) : (withRate x s).pData = s.pData := rfl
@[simp] theorem withRate_pSuccess (x : Rate) (s : Block) : (withRate x s).pSuccess = s.pSuccess := rfl
@[simp] theorem withRate_rInt (x : Rate) (s : Block) : (withRate x s).rInt = BitVec.ofNat rateBits x.int := rfl
@[simp] theorem withRate_rNum (x : Rate) (s : Block) : (withRate x s).rNum = BitVec.ofNat rateBits x.num := rfl
@[simp] theorem withRate_rDen (x : Rate) (s : Block) : (withRate x s).rDen = BitVec.ofNat rateBits x.den := rfl
@[simp] theorem withRate_msIdx (x : Rate) (s : Block) : (withRate x s).msIdx = s.msIdx := rfl
@[simp] theorem withRate_msDbl (x : Rate) (s : Block) : (withRate x s).msDbl = s.msDbl := rfl
@[simp] theorem withRate_msA (x : Rate) (s : Block) : (withRate x s).msA = s.msA := rfl
@[simp] theorem withRate_msB (x : Rate) (s : Block) : (withRate x s).msB = s.msB := rfl
@[simp] theorem withRate_msC (x : Rate) (s : Block) : (withRate x s).msC = s.msC := rfl
@[simp] theorem withRate_msR (x : Rate) (s : Block) : (withRate x s).msR = s.msR := rfl
@[simp] theorem withRate_msP1 (x : Rate) (s : Block) : (withRate x s).msP1 = s.msP1 := rfl
@[simp] theorem withRate_msP2 (x : Rate) (s : Block) : (withRate x s).msP2 = s.msP2 := rfl
@[simp] theorem withRate_msP3 (x : Rate) (s : Block) : (withRate x s).msP3 = s.msP3 := rfl
@[simp] theorem withRate_msBase (x : Rate) (s : Block) : (withRate x s).msBase = s.msBase := rfl
@[simp] theorem withRate_msRreg (x : Rate) (s : Block) : (withRate x s).msRreg = s.msRreg := rfl
@[simp] theorem withRate_mem (x : Rate) (s : Block) : (withRate x s).mem = s.mem := rfl
@[simp] theorem withRate_unset (x : Rate) (s : Block) : (withRate x s).unset = settle [.rInt, .rNum, .rDen] s.unset := rfl
@[simp] theorem withRate_draws (x : Rate) (s : Block) : (withRate x s).draws = s.draws := rfl

@[simp] theorem withMultisynth_lastErr (m : Multisynth) (s : Block) : (withMultisynth m s).lastErr = s.lastErr := rfl
@[simp] theorem withMultisynth_errs (m : Multisynth) (s : Block) : (withMultisynth m s).errs = s.errs := rfl
@[simp] theorem withMultisynth_errInfo (m : Multisynth) (s : Block) : (withMultisynth m s).errInfo = s.errInfo := rfl
@[simp] theorem withMultisynth_fTid (m : Multisynth) (s : Block) : (withMultisynth m s).fTid = s.fTid := rfl
@[simp] theorem withMultisynth_fFlags (m : Multisynth) (s : Block) : (withMultisynth m s).fFlags = s.fFlags := rfl
@[simp] theorem withMultisynth_fAddr (m : Multisynth) (s : Block) : (withMultisynth m s).fAddr = s.fAddr := rfl
@[simp] theorem withMultisynth_fData (m : Multisynth) (s : Block) : (withMultisynth m s).fData = s.fData := rfl
@[simp] theorem withMultisynth_pTid (m : Multisynth) (s : Block) : (withMultisynth m s).pTid = s.pTid := rfl
@[simp] theorem withMultisynth_pFlags (m : Multisynth) (s : Block) : (withMultisynth m s).pFlags = s.pFlags := rfl
@[simp] theorem withMultisynth_pAddr (m : Multisynth) (s : Block) : (withMultisynth m s).pAddr = s.pAddr := rfl
@[simp] theorem withMultisynth_pData (m : Multisynth) (s : Block) : (withMultisynth m s).pData = s.pData := rfl
@[simp] theorem withMultisynth_pSuccess (m : Multisynth) (s : Block) : (withMultisynth m s).pSuccess = s.pSuccess := rfl
@[simp] theorem withMultisynth_rInt (m : Multisynth) (s : Block) : (withMultisynth m s).rInt = s.rInt := rfl
@[simp] theorem withMultisynth_rNum (m : Multisynth) (s : Block) : (withMultisynth m s).rNum = s.rNum := rfl
@[simp] theorem withMultisynth_rDen (m : Multisynth) (s : Block) : (withMultisynth m s).rDen = s.rDen := rfl
@[simp] theorem withMultisynth_msIdx (m : Multisynth) (s : Block) : (withMultisynth m s).msIdx = s.msIdx := rfl
@[simp] theorem withMultisynth_msDbl (m : Multisynth) (s : Block) : (withMultisynth m s).msDbl = s.msDbl := rfl
@[simp] theorem withMultisynth_msA (m : Multisynth) (s : Block) : (withMultisynth m s).msA = BitVec.ofNat 16 m.a := rfl
@[simp] theorem withMultisynth_msB (m : Multisynth) (s : Block) : (withMultisynth m s).msB = BitVec.ofNat 32 m.b := rfl
@[simp] theorem withMultisynth_msC (m : Multisynth) (s : Block) : (withMultisynth m s).msC = BitVec.ofNat 32 m.c := rfl
@[simp] theorem withMultisynth_msR (m : Multisynth) (s : Block) : (withMultisynth m s).msR = BitVec.ofNat 8 m.r := rfl
@[simp] theorem withMultisynth_msP1 (m : Multisynth) (s : Block) : (withMultisynth m s).msP1 = s.msP1 := rfl
@[simp] theorem withMultisynth_msP2 (m : Multisynth) (s : Block) : (withMultisynth m s).msP2 = s.msP2 := rfl
@[simp] theorem withMultisynth_msP3 (m : Multisynth) (s : Block) : (withMultisynth m s).msP3 = s.msP3 := rfl
@[simp] theorem withMultisynth_msBase (m : Multisynth) (s : Block) : (withMultisynth m s).msBase = s.msBase := rfl
@[simp] theorem withMultisynth_msRreg (m : Multisynth) (s : Block) : (withMultisynth m s).msRreg = s.msRreg := rfl
@[simp] theorem withMultisynth_mem (m : Multisynth) (s : Block) : (withMultisynth m s).mem = s.mem := rfl
@[simp] theorem withMultisynth_unset (m : Multisynth) (s : Block) : (withMultisynth m s).unset = settle [.msA, .msB, .msC, .msR] s.unset := rfl
@[simp] theorem withMultisynth_draws (m : Multisynth) (s : Block) : (withMultisynth m s).draws = s.draws := rfl

@[simp] theorem withFields_lastErr (f : Fields) (s : Block) : (withFields f s).lastErr = s.lastErr := rfl
@[simp] theorem withFields_errs (f : Fields) (s : Block) : (withFields f s).errs = s.errs := rfl
@[simp] theorem withFields_errInfo (f : Fields) (s : Block) : (withFields f s).errInfo = s.errInfo := rfl
@[simp] theorem withFields_fTid (f : Fields) (s : Block) : (withFields f s).fTid = s.fTid := rfl
@[simp] theorem withFields_fFlags (f : Fields) (s : Block) : (withFields f s).fFlags = s.fFlags := rfl
@[simp] theorem withFields_fAddr (f : Fields) (s : Block) : (withFields f s).fAddr = s.fAddr := rfl
@[simp] theorem withFields_fData (f : Fields) (s : Block) : (withFields f s).fData = s.fData := rfl
@[simp] theorem withFields_pTid (f : Fields) (s : Block) : (withFields f s).pTid = s.pTid := rfl
@[simp] theorem withFields_pFlags (f : Fields) (s : Block) : (withFields f s).pFlags = s.pFlags := rfl
@[simp] theorem withFields_pAddr (f : Fields) (s : Block) : (withFields f s).pAddr = s.pAddr := rfl
@[simp] theorem withFields_pData (f : Fields) (s : Block) : (withFields f s).pData = s.pData := rfl
@[simp] theorem withFields_pSuccess (f : Fields) (s : Block) : (withFields f s).pSuccess = s.pSuccess := rfl
@[simp] theorem withFields_rInt (f : Fields) (s : Block) : (withFields f s).rInt = s.rInt := rfl
@[simp] theorem withFields_rNum (f : Fields) (s : Block) : (withFields f s).rNum = s.rNum := rfl
@[simp] theorem withFields_rDen (f : Fields) (s : Block) : (withFields f s).rDen = s.rDen := rfl
@[simp] theorem withFields_msIdx (f : Fields) (s : Block) : (withFields f s).msIdx = s.msIdx := rfl
@[simp] theorem withFields_msDbl (f : Fields) (s : Block) : (withFields f s).msDbl = s.msDbl := rfl
@[simp] theorem withFields_msA (f : Fields) (s : Block) : (withFields f s).msA = s.msA := rfl
@[simp] theorem withFields_msB (f : Fields) (s : Block) : (withFields f s).msB = s.msB := rfl
@[simp] theorem withFields_msC (f : Fields) (s : Block) : (withFields f s).msC = s.msC := rfl
@[simp] theorem withFields_msR (f : Fields) (s : Block) : (withFields f s).msR = s.msR := rfl
@[simp] theorem withFields_msP1 (f : Fields) (s : Block) : (withFields f s).msP1 = BitVec.ofNat 32 f.p1 := rfl
@[simp] theorem withFields_msP2 (f : Fields) (s : Block) : (withFields f s).msP2 = BitVec.ofNat 32 f.p2 := rfl
@[simp] theorem withFields_msP3 (f : Fields) (s : Block) : (withFields f s).msP3 = BitVec.ofNat 32 f.p3 := rfl
@[simp] theorem withFields_msBase (f : Fields) (s : Block) : (withFields f s).msBase = s.msBase := rfl
@[simp] theorem withFields_msRreg (f : Fields) (s : Block) : (withFields f s).msRreg = s.msRreg := rfl
@[simp] theorem withFields_mem (f : Fields) (s : Block) : (withFields f s).mem = s.mem := rfl
@[simp] theorem withFields_unset (f : Fields) (s : Block) : (withFields f s).unset = settle [.msP1, .msP2, .msP3] s.unset := rfl
@[simp] theorem withFields_draws (f : Fields) (s : Block) : (withFields f s).draws = s.draws := rfl

@[simp] theorem withDivider_lastErr (d : Nat × Nat × Nat) (s : Block) : (withDivider d s).lastErr = s.lastErr := rfl
@[simp] theorem withDivider_errs (d : Nat × Nat × Nat) (s : Block) : (withDivider d s).errs = s.errs := rfl
@[simp] theorem withDivider_errInfo (d : Nat × Nat × Nat) (s : Block) : (withDivider d s).errInfo = s.errInfo := rfl
@[simp] theorem withDivider_fTid (d : Nat × Nat × Nat) (s : Block) : (withDivider d s).fTid = s.fTid := rfl
@[simp] theorem withDivider_fFlags (d : Nat × Nat × Nat) (s : Block) : (withDivider d s).fFlags = s.fFlags := rfl
@[simp] theorem withDivider_fAddr (d : Nat × Nat × Nat) (s : Block) : (withDivider d s).fAddr = s.fAddr := rfl
@[simp] theorem withDivider_fData (d : Nat × Nat × Nat) (s : Block) : (withDivider d s).fData = s.fData := rfl
@[simp] theorem withDivider_pTid (d : Nat × Nat × Nat) (s : Block) : (withDivider d s).pTid = s.pTid := rfl
@[simp] theorem withDivider_pFlags (d : Nat × Nat × Nat) (s : Block) : (withDivider d s).pFlags = s.pFlags := rfl
@[simp] theorem withDivider_pAddr (d : Nat × Nat × Nat) (s : Block) : (withDivider d s).pAddr = s.pAddr := rfl
@[simp] theorem withDivider_pData (d : Nat × Nat × Nat) (s : Block) : (withDivider d s).pData = s.pData := rfl
@[simp] theorem withDivider_pSuccess (d : Nat × Nat × Nat) (s : Block) : (withDivider d s).pSuccess = s.pSuccess := rfl
@[simp] theorem withDivider_rInt (d : Nat × Nat × Nat) (s : Block) : (withDivider d s).rInt = s.rInt := rfl
@[simp] theorem withDivider_rNum (d : Nat × Nat × Nat) (s : Block) : (withDivider d s).rNum = s.rNum := rfl
@[simp] theorem withDivider_rDen (d : Nat × Nat × Nat) (s : Block) : (withDivider d s).rDen = s.rDen := rfl
@[simp] theorem withDivider_msIdx (d : Nat × Nat × Nat) (s : Block) : (withDivider d s).msIdx = s.msIdx := rfl
@[simp] theorem withDivider_msDbl (d : Nat × Nat × Nat) (s : Block) : (withDivider d s).msDbl = s.msDbl := rfl
@[simp] theorem withDivider_msA (d : Nat × Nat × Nat) (s : Block) : (withDivider d s).msA = BitVec.ofNat 16 d.1 := rfl
@[simp] theorem withDivider_msB (d : Nat × Nat × Nat) (s : Block) : (withDivider d s).msB = BitVec.ofNat 32 d.2.1 := rfl
@[simp] theorem withDivider_msC (d : Nat × Nat × Nat) (s : Block) : (withDivider d s).msC = BitVec.ofNat 32 d.2.2 := rfl
@[simp] theorem withDivider_msR (d : Nat × Nat × Nat) (s : Block) : (withDivider d s).msR = s.msR := rfl
@[simp] theorem withDivider_msP1 (d : Nat × Nat × Nat) (s : Block) : (withDivider d s).msP1 = s.msP1 := rfl
@[simp] theorem withDivider_msP2 (d : Nat × Nat × Nat) (s : Block) : (withDivider d s).msP2 = s.msP2 := rfl
@[simp] theorem withDivider_msP3 (d : Nat × Nat × Nat) (s : Block) : (withDivider d s).msP3 = s.msP3 := rfl
@[simp] theorem withDivider_msBase (d : Nat × Nat × Nat) (s : Block) : (withDivider d s).msBase = s.msBase := rfl
@[simp] theorem withDivider_msRreg (d : Nat × Nat × Nat) (s : Block) : (withDivider d s).msRreg = s.msRreg := rfl
@[simp] theorem withDivider_mem (d : Nat × Nat × Nat) (s : Block) : (withDivider d s).mem = s.mem := rfl
@[simp] theorem withDivider_unset (d : Nat × Nat × Nat) (s : Block) : (withDivider d s).unset = settle [.msA, .msB, .msC] s.unset := rfl
@[simp] theorem withDivider_draws (d : Nat × Nat × Nat) (s : Block) : (withDivider d s).draws = s.draws := rfl

@[simp] theorem withBase_lastErr (b : Nat) (s : Block) : (withBase b s).lastErr = s.lastErr := rfl
@[simp] theorem withBase_errs (b : Nat) (s : Block) : (withBase b s).errs = s.errs := rfl
@[simp] theorem withBase_errInfo (b : Nat) (s : Block) : (withBase b s).errInfo = s.errInfo := rfl
@[simp] theorem withBase_fTid (b : Nat) (s : Block) : (withBase b s).fTid = s.fTid := rfl
@[simp] theorem withBase_fFlags (b : Nat) (s : Block) : (withBase b s).fFlags = s.fFlags := rfl
@[simp] theorem withBase_fAddr (b : Nat) (s : Block) : (withBase b s).fAddr = s.fAddr := rfl
@[simp] theorem withBase_fData (b : Nat) (s : Block) : (withBase b s).fData = s.fData := rfl
@[simp] theorem withBase_pTid (b : Nat) (s : Block) : (withBase b s).pTid = s.pTid := rfl
@[simp] theorem withBase_pFlags (b : Nat) (s : Block) : (withBase b s).pFlags = s.pFlags := rfl
@[simp] theorem withBase_pAddr (b : Nat) (s : Block) : (withBase b s).pAddr = s.pAddr := rfl
@[simp] theorem withBase_pData (b : Nat) (s : Block) : (withBase b s).pData = s.pData := rfl
@[simp] theorem withBase_pSuccess (b : Nat) (s : Block) : (withBase b s).pSuccess = s.pSuccess := rfl
@[simp] theorem withBase_rInt (b : Nat) (s : Block) : (withBase b s).rInt = s.rInt := rfl
@[simp] theorem withBase_rNum (b : Nat) (s : Block) : (withBase b s).rNum = s.rNum := rfl
@[simp] theorem withBase_rDen (b : Nat) (s : Block) : (withBase b s).rDen = s.rDen := rfl
@[simp] theorem withBase_msIdx (b : Nat) (s : Block) : (withBase b s).msIdx = s.msIdx := rfl
@[simp] theorem withBase_msDbl (b : Nat) (s : Block) : (withBase b s).msDbl = s.msDbl := rfl
@[simp] theorem withBase_msA (b : Nat) (s : Block) : (withBase b s).msA = s.msA := rfl
@[simp] theorem withBase_msB (b : Nat) (s : Block) : (withBase b s).msB = s.msB := rfl
@[simp] theorem withBase_msC (b : Nat) (s : Block) : (withBase b s).msC = s.msC := rfl
@[simp] theorem withBase_msR (b : Nat) (s : Block) : (withBase b s).msR = s.msR := rfl
@[simp] theorem withBase_msP1 (b : Nat) (s : Block) : (withBase b s).msP1 = s.msP1 := rfl
@[simp] theorem withBase_msP2 (b : Nat) (s : Block) : (withBase b s).msP2 = s.msP2 := rfl
@[simp] theorem withBase_msP3 (b : Nat) (s : Block) : (withBase b s).msP3 = s.msP3 := rfl
@[simp] theorem withBase_msBase (b : Nat) (s : Block) : (withBase b s).msBase = BitVec.ofNat 8 b := rfl
@[simp] theorem withBase_msRreg (b : Nat) (s : Block) : (withBase b s).msRreg = s.msRreg := rfl
@[simp] theorem withBase_mem (b : Nat) (s : Block) : (withBase b s).mem = s.mem := rfl
@[simp] theorem withBase_unset (b : Nat) (s : Block) : (withBase b s).unset = settle [.msBase] s.unset := rfl
@[simp] theorem withBase_draws (b : Nat) (s : Block) : (withBase b s).draws = s.draws := rfl

@[simp] theorem withRreg_lastErr (b : Byte) (s : Block) : (withRreg b s).lastErr = s.lastErr := rfl
@[simp] theorem withRreg_errs (b : Byte) (s : Block) : (withRreg b s).errs = s.errs := rfl
@[simp] theorem withRreg_errInfo (b : Byte) (s : Block) : (withRreg b s).errInfo = s.errInfo := rfl
@[simp] theorem withRreg_fTid (b : Byte) (s : Block) : (withRreg b s).fTid = s.fTid := rfl
@[simp] theorem withRreg_fFlags (b : Byte) (s : Block) : (withRreg b s).fFlags = s.fFlags := rfl
@[simp] theorem withRreg_fAddr (b : Byte) (s : Block) : (withRreg b s).fAddr = s.fAddr := rfl
@[simp] theorem withRreg_fData (b : Byte) (s : Block) : (withRreg b s).fData = s.fData := rfl
@[simp] theorem withRreg_pTid (b : Byte) (s : Block) : (withRreg b s).pTid = s.pTid := rfl
@[simp] theorem withRreg_pFlags (b : Byte) (s : Block) : (withRreg b s).pFlags = s.pFlags := rfl
@[simp] theorem withRreg_pAddr (b : Byte) (s : Block) : (withRreg b s).pAddr = s.pAddr := rfl
@[simp] theorem withRreg_pData (b : Byte) (s : Block) : (withRreg b s).pData = s.pData := rfl
@[simp] theorem withRreg_pSuccess (b : Byte) (s : Block) : (withRreg b s).pSuccess = s.pSuccess := rfl
@[simp] theorem withRreg_rInt (b : Byte) (s : Block) : (withRreg b s).rInt = s.rInt := rfl
@[simp] theorem withRreg_rNum (b : Byte) (s : Block) : (withRreg b s).rNum = s.rNum := rfl
@[simp] theorem withRreg_rDen (b : Byte) (s : Block) : (withRreg b s).rDen = s.rDen := rfl
@[simp] theorem withRreg_msIdx (b : Byte) (s : Block) : (withRreg b s).msIdx = s.msIdx := rfl
@[simp] theorem withRreg_msDbl (b : Byte) (s : Block) : (withRreg b s).msDbl = s.msDbl := rfl
@[simp] theorem withRreg_msA (b : Byte) (s : Block) : (withRreg b s).msA = s.msA := rfl
@[simp] theorem withRreg_msB (b : Byte) (s : Block) : (withRreg b s).msB = s.msB := rfl
@[simp] theorem withRreg_msC (b : Byte) (s : Block) : (withRreg b s).msC = s.msC := rfl
@[simp] theorem withRreg_msR (b : Byte) (s : Block) : (withRreg b s).msR = s.msR := rfl
@[simp] theorem withRreg_msP1 (b : Byte) (s : Block) : (withRreg b s).msP1 = s.msP1 := rfl
@[simp] theorem withRreg_msP2 (b : Byte) (s : Block) : (withRreg b s).msP2 = s.msP2 := rfl
@[simp] theorem withRreg_msP3 (b : Byte) (s : Block) : (withRreg b s).msP3 = s.msP3 := rfl
@[simp] theorem withRreg_msBase (b : Byte) (s : Block) : (withRreg b s).msBase = s.msBase := rfl
@[simp] theorem withRreg_msRreg (b : Byte) (s : Block) : (withRreg b s).msRreg = b := rfl
@[simp] theorem withRreg_mem (b : Byte) (s : Block) : (withRreg b s).mem = s.mem := rfl
@[simp] theorem withRreg_unset (b : Byte) (s : Block) : (withRreg b s).unset = settle [.msRreg] s.unset := rfl
@[simp] theorem withRreg_draws (b : Byte) (s : Block) : (withRreg b s).draws = s.draws := rfl

@[simp] theorem observe_toBlock (o : Observation) (s : State) : (observe o s).toBlock = s.toBlock := rfl
@[simp] theorem observe_pending (o : Observation) (s : State) : (observe o s).pending = s.pending := rfl
@[simp] theorem observe_seen (o : Observation) (s : State) : (observe o s).seen = o :: s.seen := rfl

@[simp] theorem mapBlock_toBlock (f : Block → Block) (s : State) : (s.mapBlock f).toBlock = f s.toBlock := rfl
@[simp] theorem mapBlock_pending (f : Block → Block) (s : State) : (s.mapBlock f).pending = s.pending := rfl
@[simp] theorem mapBlock_seen (f : Block → Block) (s : State) : (s.mapBlock f).seen = s.seen := rfl

/-- Setting a data register leaves everything outside the data registers alone (10_state R22 to R25). -/
theorem setReg_environment (r : Reg) (v : Nat) (s : Block) :
    (setReg r v s).lastErr = s.lastErr ∧ (setReg r v s).errs = s.errs ∧ (setReg r v s).errInfo = s.errInfo ∧
      (setReg r v s).mem = s.mem ∧ (setReg r v s).unset = s.unset ∧ (setReg r v s).draws = s.draws := by
  cases r <;> exact ⟨rfl, rfl, rfl, rfl, rfl, rfl⟩

@[simp] theorem setReg_lastErr (r : Reg) (v : Nat) (s : Block) : (setReg r v s).lastErr = s.lastErr := (setReg_environment r v s).1
@[simp] theorem setReg_errs (r : Reg) (v : Nat) (s : Block) : (setReg r v s).errs = s.errs := (setReg_environment r v s).2.1
@[simp] theorem setReg_errInfo (r : Reg) (v : Nat) (s : Block) : (setReg r v s).errInfo = s.errInfo := (setReg_environment r v s).2.2.1
@[simp] theorem setReg_mem (r : Reg) (v : Nat) (s : Block) : (setReg r v s).mem = s.mem := (setReg_environment r v s).2.2.2.1
@[simp] theorem setReg_unset (r : Reg) (v : Nat) (s : Block) : (setReg r v s).unset = s.unset := (setReg_environment r v s).2.2.2.2.1
@[simp] theorem setReg_draws (r : Reg) (v : Nat) (s : Block) : (setReg r v s).draws = s.draws := (setReg_environment r v s).2.2.2.2.2

/-- A data register reads as the value it was set to, when the value fits. -/
theorem readReg_setReg_same {r : Reg} {v : Nat} (s : Block) (hr : r ∈ dataRegs) (hv : v < 2 ^ regWidth Config.std r) :
    readReg r (setReg r v s) = BitVec.ofNat 64 v := by
  apply BitVec.eq_of_toNat_eq
  cases r <;> first
    | exact absurd hr (by decide)
    | (simp only [regWidth, Config.std, rateBits] at hv
       simp only [readReg, setReg, BitVec.toNat_setWidth, BitVec.toNat_ofNat, rateBits]
       omega)

/-- Setting a register leaves what every other register reads alone. -/
theorem readReg_setReg_other {r r' : Reg} (v : Nat) (s : Block) (h : r' ≠ r) : readReg r' (setReg r v s) = readReg r' s := by
  cases r <;> cases r' <;> first | rfl | exact absurd rfl h

@[simp] theorem writeReg_lastErr (r : Reg) (v : Nat) (s : Block) : (writeReg r v s).lastErr = s.lastErr := setReg_lastErr r v s
@[simp] theorem writeReg_errs (r : Reg) (v : Nat) (s : Block) : (writeReg r v s).errs = s.errs := setReg_errs r v s
@[simp] theorem writeReg_errInfo (r : Reg) (v : Nat) (s : Block) : (writeReg r v s).errInfo = s.errInfo := setReg_errInfo r v s
@[simp] theorem writeReg_mem (r : Reg) (v : Nat) (s : Block) : (writeReg r v s).mem = s.mem := setReg_mem r v s
@[simp] theorem writeReg_unset (r : Reg) (v : Nat) (s : Block) : (writeReg r v s).unset = settle [r] s.unset := rfl
@[simp] theorem writeReg_draws (r : Reg) (v : Nat) (s : Block) : (writeReg r v s).draws = s.draws := setReg_draws r v s

theorem readReg_writeReg_other {r r' : Reg} (v : Nat) (s : Block) (h : r' ≠ r) : readReg r' (writeReg r v s) = readReg r' s := by
  rw [← readReg_setReg_other v s h]
  cases r' <;> rfl

/-- A write settles exactly the registers it names. -/
@[simp] theorem mem_settle {r : Reg} {rs us : List Reg} : r ∈ settle rs us ↔ r ∈ us ∧ r ∉ rs := by
  simp [settle]

@[simp] theorem settle_nil_right (rs : List Reg) : settle rs [] = [] := rfl

/-- Two writes settle what either settles. -/
theorem settle_settle (rs qs us : List Reg) : settle rs (settle qs us) = settle (qs ++ rs) us := by
  simp only [settle, List.filter_filter]
  congr 1
  funext r
  by_cases h1 : r ∈ qs <;> by_cases h2 : r ∈ rs <;> simp [h1, h2]

theorem settle_sublist (rs us : List Reg) : (settle rs us).Sublist us := List.filter_sublist

@[simp] theorem redraw_lastErr (cfg : Config) (s : Block) (r : Reg) : (redraw cfg s r).lastErr = s.lastErr := setReg_lastErr r _ s
@[simp] theorem redraw_errs (cfg : Config) (s : Block) (r : Reg) : (redraw cfg s r).errs = s.errs := setReg_errs r _ s
@[simp] theorem redraw_errInfo (cfg : Config) (s : Block) (r : Reg) : (redraw cfg s r).errInfo = s.errInfo := setReg_errInfo r _ s
@[simp] theorem redraw_mem (cfg : Config) (s : Block) (r : Reg) : (redraw cfg s r).mem = s.mem := setReg_mem r _ s
@[simp] theorem redraw_unset (cfg : Config) (s : Block) (r : Reg) : (redraw cfg s r).unset = s.unset := setReg_unset r _ s

/-- A register drawn reads as the next free value, cut to its width. -/
theorem readReg_redraw_same (s : Block) {r : Reg} (hr : r ∈ dataRegs) :
    readReg r (redraw Config.std s r) =
      BitVec.ofNat 64 ((Config.unspecified s.draws).toNat % 2 ^ regWidth Config.std r) := by
  rw [← readReg_setReg_same s hr (Nat.mod_lt _ (Nat.two_pow_pos _))]
  cases r <;> rfl

theorem readReg_redraw_other (cfg : Config) (s : Block) {r r' : Reg} (h : r' ≠ r) : readReg r' (redraw cfg s r) = readReg r' s := by
  rw [← readReg_setReg_other _ s h]
  cases r' <;> rfl

/-- What a list of draws leaves alone: everything but the registers drawn. -/
theorem foldl_redraw (cfg : Config) (rs : List Reg) (s : Block) :
    (rs.foldl (redraw cfg) s).lastErr = s.lastErr ∧ (rs.foldl (redraw cfg) s).errs = s.errs ∧
      (rs.foldl (redraw cfg) s).errInfo = s.errInfo ∧ (rs.foldl (redraw cfg) s).mem = s.mem ∧
      (rs.foldl (redraw cfg) s).unset = s.unset ∧
      ∀ r, r ∉ rs → readReg r (rs.foldl (redraw cfg) s) = readReg r s := by
  induction rs generalizing s with
  | nil => exact ⟨rfl, rfl, rfl, rfl, rfl, fun _ _ => rfl⟩
  | cons q rs ih =>
    obtain ⟨h1, h2, h3, h4, h5, h6⟩ := ih (redraw cfg s q)
    refine ⟨by simpa using h1, by simpa using h2, by simpa using h3, by simpa using h4, by simpa using h5, fun r hr => ?_⟩
    simp only [List.mem_cons, not_or] at hr
    rw [List.foldl_cons, h6 r hr.2, readReg_redraw_other cfg s hr.1]

@[simp] theorem refresh_lastErr (cfg : Config) (s : Block) : (refresh cfg s).lastErr = s.lastErr := (foldl_redraw cfg s.unset s).1
@[simp] theorem refresh_errs (cfg : Config) (s : Block) : (refresh cfg s).errs = s.errs := (foldl_redraw cfg s.unset s).2.1
@[simp] theorem refresh_errInfo (cfg : Config) (s : Block) : (refresh cfg s).errInfo = s.errInfo := (foldl_redraw cfg s.unset s).2.2.1
@[simp] theorem refresh_mem (cfg : Config) (s : Block) : (refresh cfg s).mem = s.mem := (foldl_redraw cfg s.unset s).2.2.2.1
@[simp] theorem refresh_unset (cfg : Config) (s : Block) : (refresh cfg s).unset = s.unset := (foldl_redraw cfg s.unset s).2.2.2.2.1

/-- Each draw takes the next free value. -/
theorem foldl_redraw_draws (cfg : Config) (rs : List Reg) (s : Block) : (rs.foldl (redraw cfg) s).draws = s.draws + rs.length := by
  induction rs generalizing s with
  | nil => rfl
  | cons q rs ih =>
    rw [List.foldl_cons, ih, List.length_cons]
    show s.draws + 1 + rs.length = _
    omega

@[simp] theorem refresh_draws (cfg : Config) (s : Block) : (refresh cfg s).draws = s.draws + s.unset.length :=
  foldl_redraw_draws cfg s.unset s

/-- A register that something has written is not drawn anew (10_state R37). -/
theorem readReg_refresh (cfg : Config) {s : Block} {r : Reg} (h : r ∉ s.unset) : readReg r (refresh cfg s) = readReg r s :=
  (foldl_redraw cfg s.unset s).2.2.2.2.2 r h

/-- With every register written nothing is drawn. -/
theorem refresh_of_settled (cfg : Config) {s : Block} (h : s.unset = []) : refresh cfg s = s := by
  unfold refresh
  rw [h]
  rfl

theorem refreshed_of_settled {s : State} (h : s.unset = []) : refreshed s = s := by
  unfold refreshed State.mapBlock
  rw [refresh_of_settled _ h]

@[simp] theorem resetBlock_lastErr (cfg : Config) (s : Block) : (resetBlock cfg s).lastErr = 0 := refresh_lastErr _ _
@[simp] theorem resetBlock_errs (cfg : Config) (s : Block) : (resetBlock cfg s).errs = 0 := refresh_errs _ _
@[simp] theorem resetBlock_errInfo (cfg : Config) (s : Block) : (resetBlock cfg s).errInfo = 0 := refresh_errInfo _ _
@[simp] theorem resetBlock_mem (cfg : Config) (s : Block) : (resetBlock cfg s).mem = [] := refresh_mem _ _
@[simp] theorem resetBlock_unset (cfg : Config) (s : Block) : (resetBlock cfg s).unset = dataRegs := refresh_unset _ _

end Sys2Proof.Machine
end

