-- ==== Sys2Proof/Laws/Ops.lean ====
section
/-! SUPPORT. What each shared operation can do, said once: the end of a command, raising, and the reads of buffer space. -/

namespace Sys2Proof.Machine

@[simp] theorem finish_ok (s t : Block) : finish s (.ok t) = .next t := rfl

@[simp] theorem finish_raise (s : Block) (c : Cause) (sub val : Byte) :
    finish s (.error (.raise c sub val)) = .next (recordCause c sub val s) := rfl

@[simp] theorem finish_unwritten (s : Block) (a : Nat) :
    finish s (.error (.unwritten a)) = .fault (.unwrittenByte a) := rfl

/-- A command that goes on either reached its end or raised; raising, it changed nothing but by the recording (R251). -/
theorem finish_next {s t : Block} {r : Except Abort Block} (h : finish s r = .next t) :
    r = .ok t ∨ ∃ c sub val, r = .error (.raise c sub val) ∧ t = recordCause c sub val s := by
  match r, h with
  | .ok u, h =>
    cases h
    exact .inl rfl
  | .error (.raise c sub val), h =>
    cases h
    exact .inr ⟨c, sub, val, rfl, rfl⟩

/-- A command stops only at a buffer byte nothing has written (R37). -/
theorem finish_fault {s : Block} {r : Except Abort Block} {e : Fault} (h : finish s r = .fault e) :
    ∃ a, r = .error (.unwritten a) ∧ e = .unwrittenByte a := by
  match r, h with
  | .error (.unwritten a), h =>
    cases h
    exact ⟨a, rfl, rfl⟩

theorem finish_not_refused {s : Block} {r : Except Abort Block} {e : Refusal} : finish s r ≠ .refused e := by
  match r with
  | .ok _ => simp
  | .error (.raise ..) => simp
  | .error (.unwritten _) => simp

@[simp] theorem onBlock_of_next {f : Block → Host.Outcome Block Fault Refusal} {s : State} {b : Block} (h : f s.toBlock = .next b) :
    onBlock f s = .next { s with toBlock := b } := by simp only [onBlock, h]

@[simp] theorem onBlock_of_fault {f : Block → Host.Outcome Block Fault Refusal} {s : State} {e : Fault}
    (h : f s.toBlock = .fault e) : onBlock f s = .fault e := by simp only [onBlock, h]

/-- A command answers a state whose block is the one it computes, with the same outside world beside it. -/
theorem onBlock_next {f : Block → Host.Outcome Block Fault Refusal} {s t : State} (h : onBlock f s = .next t) :
    ∃ b, f s.toBlock = .next b ∧ t = { s with toBlock := b } := by
  unfold onBlock at h
  split at h
  · rename_i b hb
    cases h
    exact ⟨b, hb, rfl⟩
  · cases h
  · cases h

theorem onBlock_fault {f : Block → Host.Outcome Block Fault Refusal} {s : State} {e : Fault} (h : onBlock f s = .fault e) :
    f s.toBlock = .fault e := by
  unfold onBlock at h
  split at h
  · cases h
  · rename_i r hr
    cases h
    exact hr
  · cases h

section Bind
variable {α β : Type}

@[simp] theorem ok_bind (a : α) (f : α → Except Abort β) : ((Except.ok a : Except Abort α) >>= f) = f a := rfl

@[simp] theorem error_bind (e : Abort) (f : α → Except Abort β) :
    ((Except.error e : Except Abort α) >>= f) = .error e := rfl

@[simp] theorem pure_eq_ok (a : α) : (pure a : Except Abort α) = .ok a := rfl

/-- `if p: raise ...`, and then the rest of the command. -/
@[simp] theorem raiseIf_bind (p : Prop) [Decidable p] (c : Cause) (sub val : Byte) (f : Unit → Except Abort β) :
    (raiseIf p c sub val >>= f) = if p then .error (.raise c sub val) else f () := by
  unfold raiseIf
  split_ifs <;> rfl

theorem bind_eq_ok {x : Except Abort α} {f : α → Except Abort β} {b : β} (h : (x >>= f) = .ok b) :
    ∃ a, x = .ok a ∧ f a = .ok b := by
  cases x with
  | ok a => exact ⟨a, rfl, h⟩
  | error e => cases h

theorem bind_eq_error {x : Except Abort α} {f : α → Except Abort β} {e : Abort} (h : (x >>= f) = .error e) :
    x = .error e ∨ ∃ a, x = .ok a ∧ f a = .error e := by
  cases x with
  | ok a => exact .inr ⟨a, rfl, h⟩
  | error e' =>
    cases h
    exact .inl rfl

@[simp] theorem map_ok (a : α) (f : α → β) : (Except.ok a : Except Abort α).map f = .ok (f a) := rfl

@[simp] theorem map_error (e : Abort) (f : α → β) : (Except.error e : Except Abort α).map f = .error e := rfl

theorem map_eq_ok {x : Except Abort α} {f : α → β} {b : β} (h : x.map f = .ok b) : ∃ a, x = .ok a ∧ f a = b := by
  cases x with
  | ok a => exact ⟨a, rfl, by simpa using h⟩
  | error e => cases h

theorem map_eq_error {x : Except Abort α} {f : α → β} {e : Abort} (h : x.map f = .error e) : x = .error e := by
  cases x with
  | ok a => cases h
  | error e' => simpa using h

end Bind

theorem fetchByte_of_read {m : Memory} {a : Nat} {b : Byte} (h : Memory.read m a = some b) : fetchByte m a = .ok b := by
  simp [fetchByte, h]

theorem fetchByte_of_unwritten {m : Memory} {a : Nat} (h : Memory.read m a = none) :
    fetchByte m a = .error (.unwritten a) := by simp [fetchByte, h]

theorem fetchByte_eq_ok {m : Memory} {a : Nat} {b : Byte} (h : fetchByte m a = .ok b) : Memory.read m a = some b := by
  unfold fetchByte at h
  split at h
  · cases h
    assumption
  · cases h

theorem fetchByte_eq_error {m : Memory} {a : Nat} {e : Abort} (h : fetchByte m a = .error e) : e = .unwritten a := by
  unfold fetchByte at h
  split at h <;> cases h
  rfl

/-- A read of several bytes fails only at one of them, for want of a value. -/
theorem fetchBytes_eq_error {m : Memory} {n a : Nat} {e : Abort} (h : fetchBytes m a n = .error e) :
    ∃ x, e = .unwritten x ∧ a ≤ x ∧ x < a + n := by
  induction n generalizing a with
  | zero => cases h
  | succ n ih =>
    rcases bind_eq_error h with h1 | ⟨b, _, h1⟩
    · exact ⟨a, fetchByte_eq_error h1, by omega, by omega⟩
    · rcases bind_eq_error h1 with h2 | ⟨_, _, h2⟩
      · obtain ⟨x, hx, h3, h4⟩ := ih h2
        exact ⟨x, hx, by omega, by omega⟩
      · cases h2

theorem fetchField_eq_error {en : Endian} {m : Memory} {n a : Nat} {e : Abort} (h : fetchField en m a n = .error e) :
    ∃ x, e = .unwritten x ∧ a ≤ x ∧ x < a + n := fetchBytes_eq_error (map_eq_error h)

/-- A command's read depends on the bytes it reads alone. -/
theorem fetchBytes_congr {m m' : Memory} {n a : Nat} (h : ∀ i, i < n → Memory.read m (a + i) = Memory.read m' (a + i)) :
    fetchBytes m a n = fetchBytes m' a n := by
  induction n generalizing a with
  | zero => rfl
  | succ n ih =>
    have h00 : Memory.read m a = Memory.read m' a := by simpa using h 0 (by omega)
    have h0 : fetchByte m a = fetchByte m' a := by simp only [fetchByte, h00]
    have hr : fetchBytes m (a + 1) n = fetchBytes m' (a + 1) n :=
      ih (fun i hi => by simpa [show a + 1 + i = a + (i + 1) by omega] using h (i + 1) (by omega))
    simp only [fetchBytes, h0, hr]

end Sys2Proof.Machine
end

