-- ==== Sys2Proof/Laws/Commands.lean ====
section
/-! SUPPORT. The computation of each command as one chain of tests, in the order of its rule: the provers cite these instead of
unfolding the computations. The parameters are the ones of this block. -/

namespace Sys2Proof.Machine

/-- R131, both tests and the bytes. -/
theorem buildBytes_eq (cfg : Config) (k : FrameClass) (tid flags : Byte) (addr data : Nat) :
    buildBytes cfg k tid flags addr data =
      if 2 ^ cfg.aw k ≤ addr then .error (.raise .invalidState 2 0)
      else if 2 ^ cfg.dw k ≤ data then .error (.raise .invalidState 2 1)
      else .ok ([cfg.magic k, tid, flags, 0x00] ++ fieldBytes cfg.fieldEndian (cfg.na k) addr
        ++ fieldBytes cfg.fieldEndian (cfg.nd k) data ++ List.replicate (cfg.frameLen - 4 - cfg.na k - cfg.nd k) 0x00) := by
  simp [buildBytes]

/-- "All sixteen bytes of TXF are written" (R131). -/
theorem buildBytes_length {k : FrameClass} {tid flags : Byte} {addr data : Nat} {bs : List Byte}
    (h : buildBytes Config.std k tid flags addr data = .ok bs) : bs.length = 16 := by
  rw [buildBytes_eq] at h
  split_ifs at h
  cases h
  cases k <;>
    simp [Config.na, Config.nd, Config.std, FrameClass.aw, FrameClass.dw, frameLen]

/-- Every cause a BUILD can raise. -/
theorem buildBytes_raise {cfg : Config} {k : FrameClass} {tid flags : Byte} {addr data : Nat} {e : Abort}
    (h : buildBytes cfg k tid flags addr data = .error e) : ∃ val, e = .raise .invalidState 2 val := by
  rw [buildBytes_eq] at h
  split_ifs at h <;> cases h
  · exact ⟨0, rfl⟩
  · exact ⟨1, rfl⟩

/-- Every way a PARSE can be cut short (R151): the two tests, or a byte nothing has written. -/
theorem parseBytes_error {cfg : Config} {k : FrameClass} {m : Memory} {tid : Byte} {e : Abort}
    (h : parseBytes cfg k m tid = .error e) :
    (∃ b, e = .raise .protocolError 0 b) ∨ (cfg.checkTarget = true ∧ ∃ b, e = .raise .protocolError 1 b) ∨
      ∃ x, e = .unwritten x ∧ rxfBase ≤ x ∧ x < rxfBase + 4 + cfg.na k + cfg.nd k := by
  unfold parseBytes at h
  rcases bind_eq_error h with h | ⟨magic, _, h⟩
  · exact .inr (.inr ⟨_, fetchByte_eq_error h, by omega, by omega⟩)
  rw [raiseIf_bind] at h
  split_ifs at h with hm
  · cases h
    exact .inl ⟨_, rfl⟩
  rcases bind_eq_error h with h | ⟨t, _, h⟩
  · exact .inr (.inr ⟨_, fetchByte_eq_error h, by omega, by omega⟩)
  rw [raiseIf_bind] at h
  split_ifs at h with ht
  · cases h
    exact .inr (.inl ⟨ht.1, _, rfl⟩)
  rcases bind_eq_error h with h | ⟨flags, _, h⟩
  · exact .inr (.inr ⟨_, fetchByte_eq_error h, by omega, by omega⟩)
  rcases bind_eq_error h with h | ⟨addr, _, h⟩
  · obtain ⟨x, hx, h1, h2⟩ := fetchField_eq_error h
    exact .inr (.inr ⟨x, hx, by omega, by omega⟩)
  rcases bind_eq_error h with h | ⟨data, _, h⟩
  · obtain ⟨x, hx, h1, h2⟩ := fetchField_eq_error h
    exact .inr (.inr ⟨x, hx, by omega, by omega⟩)
  · cases h

/-- R174. -/
theorem reduceRate_eq (cfg : Config) (x : Rate) :
    reduceRate cfg x =
      if x.den = 0 then .error (.raise .invalidState 3 0)
      else if 2 ^ cfg.wRate ≤ x.int + x.num / x.den then .error (.raise .rangeError 2 1)
      else .ok ⟨x.int + x.num / x.den, x.num % x.den / Nat.gcd (x.num % x.den) x.den,
        x.den / Nat.gcd (x.num % x.den) x.den⟩ := by
  simp [reduceRate, euclidGcd]

/-- R175. -/
theorem doubleRate_eq (cfg : Config) (x : Rate) :
    doubleRate cfg x =
      if x.den = 0 then .error (.raise .invalidState 3 0)
      else if 2 ^ cfg.wRate ≤ 2 * x.int then .error (.raise .rangeError 2 2)
      else if 2 ^ cfg.wRate ≤ 2 * x.num then .error (.raise .rangeError 2 3)
      else reduceRate cfg ⟨2 * x.int, 2 * x.num, x.den⟩ := by
  simp [doubleRate]

/-- The recursion of R172 holds of the gcd the model uses. -/
theorem euclidGcd_step (x y : Nat) : euclidGcd x y = if y ≠ 0 then euclidGcd y (x % y) else x := by
  unfold euclidGcd
  split_ifs with h
  · rw [Nat.gcd_comm x y, Nat.gcd_rec y x, Nat.gcd_comm]
  · have h0 : y = 0 := by simpa using h
    simp [h0]

/-- R186, from the rate after the doublings. -/
theorem solveRate_eq (cfg : Config) (x : Rate) (r : Nat) :
    solveRate cfg x r =
      if 2 ^ cfg.wRate ≤ cfg.fVco * x.den then .error (.raise .rangeError 2 4)
      else if 2 ^ cfg.wRate ≤ x.int * x.den then .error (.raise .rangeError 2 5)
      else if 2 ^ cfg.wRate ≤ x.int * x.den + x.num then .error (.raise .rangeError 2 6)
      else if x.int * x.den + x.num = 0 then .error (.raise .rangeError 3 0)
      else (reduceRate cfg ⟨0, cfg.fVco * x.den, x.int * x.den + x.num⟩) >>= fun q =>
        if q.int < cfg.aMin ∨ cfg.aMax < q.int then .error (.raise .rangeError 1 0)
        else .ok ⟨q.int, (shrink cfg.shrinkLimit (shrinkPasses cfg) q.num q.den).1,
          (shrink cfg.shrinkLimit (shrinkPasses cfg) q.num q.den).2, r⟩ := by
  simp [solveRate]

/-- R186 as a whole. -/
theorem calcMultisynth_eq (cfg : Config) (dbl : BitVec 1) (x : Rate) :
    calcMultisynth cfg dbl x =
      if x.den = 0 then .error (.raise .invalidState 3 0)
      else (if dbl = 1 then doubleRate cfg x else .ok x) >>= fun x1 =>
        searchDivider cfg (searchDoublings cfg) x1 1 >>= fun xr => solveRate cfg xr.1 xr.2 := by
  simp only [calcMultisynth, raiseIf_bind]
  split_ifs <;> rfl

/-- R196, the three tests and the fields. -/
theorem packFields_eq (cfg : Config) (a b c : Nat) :
    packFields cfg a b c =
      if a < cfg.aMin ∨ cfg.aMax < a then .error (.raise .invalidState 4 0)
      else if c = 0 ∨ 2 ^ cfg.p3Bits ≤ c then .error (.raise .invalidState 4 1)
      else if c ≤ b then .error (.raise .invalidState 4 2)
      else .ok ⟨128 * a + 128 * b / c - 512, 128 * b - 128 * b / c * c, c⟩ := by
  simp [packFields]

@[simp] theorem imageBytes_length (cfg : Config) (f : Fields) : (imageBytes cfg f).length = 10 := by
  simp [imageBytes, imageLen]

/-- The ten bytes of R195's table, field by field. -/
theorem imageBytes_std (f : Fields) :
    imageBytes Config.std f =
      [(BitVec.ofNat 18 f.p1).extractLsb' 0 8, (BitVec.ofNat 18 f.p1).extractLsb' 8 8,
       (BitVec.ofNat 30 f.p2).extractLsb' 0 6 ++ (BitVec.ofNat 18 f.p1).extractLsb' 16 2,
       (BitVec.ofNat 30 f.p2).extractLsb' 6 8, (BitVec.ofNat 30 f.p2).extractLsb' 14 8, (BitVec.ofNat 30 f.p2).extractLsb' 22 8,
       (BitVec.ofNat 30 f.p3).extractLsb' 0 8, (BitVec.ofNat 30 f.p3).extractLsb' 8 8, (BitVec.ofNat 30 f.p3).extractLsb' 16 8,
       0#2 ++ (BitVec.ofNat 30 f.p3).extractLsb' 24 6] := by
  have key : ∀ (p1 : BitVec 18) (p2 p3 : BitVec 30),
      (List.range 10).map (fun j => (p3 ++ p2 ++ p1 : BitVec (30 + 30 + 18)).extractLsb' (8 * j) 8) =
        [p1.extractLsb' 0 8, p1.extractLsb' 8 8, p2.extractLsb' 0 6 ++ p1.extractLsb' 16 2, p2.extractLsb' 6 8,
         p2.extractLsb' 14 8, p2.extractLsb' 22 8, p3.extractLsb' 0 8, p3.extractLsb' 8 8, p3.extractLsb' 16 8,
         0#2 ++ p3.extractLsb' 24 6] := by
    intro p1 p2 p3
    simp only [List.range, List.range.loop, List.map_cons, List.map_nil, List.cons.injEq, and_true]
    refine ⟨?_, ?_, ?_, ?_, ?_, ?_, ?_, ?_, ?_, ?_⟩ <;>
      · apply BitVec.eq_of_getLsbD_eq
        intro i hi
        simp only [BitVec.getLsbD_extractLsb', BitVec.getLsbD_append]
        interval_cases i <;> simp
  exact key _ _ _

/-- The three fields of an image by its bytes (R195's table, read backwards). -/
theorem imageFields_std (m0 m1 m2 m3 m4 m5 m6 m7 m8 m9 : Byte) :
    imageFields Config.std [m0, m1, m2, m3, m4, m5, m6, m7, m8, m9] =
      ⟨(m2.extractLsb' 0 2 ++ m1 ++ m0).toNat, (m5 ++ m4 ++ m3 ++ m2.extractLsb' 2 6).toNat,
       (m9.extractLsb' 0 6 ++ m8 ++ m7 ++ m6).toNat⟩ := by
  have hbits : ∀ i, (BitVec.ofNat 80 (leValue [m0, m1, m2, m3, m4, m5, m6, m7, m8, m9])).getLsbD i =
      (m9 ++ m8 ++ m7 ++ m6 ++ m5 ++ m4 ++ m3 ++ m2 ++ m1 ++ m0 : BitVec 80).getLsbD i := by
    intro i
    by_cases hi : i < 80
    · simp only [BitVec.getLsbD_ofNat, hi, decide_true, Bool.true_and, testBit_leValue_cons, BitVec.getLsbD_append]
      interval_cases i <;> rfl
    · rw [BitVec.getLsbD_of_ge _ _ (by omega), BitVec.getLsbD_of_ge _ _ (by omega)]
  have h1 : (BitVec.ofNat 80 (leValue [m0, m1, m2, m3, m4, m5, m6, m7, m8, m9])).extractLsb' 0 18 =
      m2.extractLsb' 0 2 ++ m1 ++ m0 := by
    apply BitVec.eq_of_getLsbD_eq
    intro i hi
    simp only [BitVec.getLsbD_extractLsb', hbits, BitVec.getLsbD_append]
    interval_cases i <;> simp
  have h2 : (BitVec.ofNat 80 (leValue [m0, m1, m2, m3, m4, m5, m6, m7, m8, m9])).extractLsb' 18 30 =
      m5 ++ m4 ++ m3 ++ m2.extractLsb' 2 6 := by
    apply BitVec.eq_of_getLsbD_eq
    intro i hi
    simp only [BitVec.getLsbD_extractLsb', hbits, BitVec.getLsbD_append]
    interval_cases i <;> simp
  have h3 : (BitVec.ofNat 80 (leValue [m0, m1, m2, m3, m4, m5, m6, m7, m8, m9])).extractLsb' 48 30 =
      m9.extractLsb' 0 6 ++ m8 ++ m7 ++ m6 := by
    apply BitVec.eq_of_getLsbD_eq
    intro i hi
    simp only [BitVec.getLsbD_extractLsb', hbits, BitVec.getLsbD_append]
    interval_cases i <;> simp
  have e1 := congrArg BitVec.toNat h1
  have e2 := congrArg BitVec.toNat h2
  have e3 := congrArg BitVec.toNat h3
  show Fields.mk _ _ _ = _
  rw [Fields.mk.injEq]
  exact ⟨e1, e2, e3⟩

/-- R200. -/
theorem unpackFields_eq (f : Fields) :
    unpackFields f =
      if f.p3 = 0 then .error (.raise .invalidState 5 0)
      else .ok ((f.p1 + 512) >>> 7, (((f.p1 + 512) &&& 0x7F) * f.p3 + f.p2) >>> 7, f.p3) := by
  simp [unpackFields]

/-- R205. -/
theorem baseAddress_eq (cfg : Config) (idx : BitVec 8) :
    baseAddress cfg idx =
      if cfg.nMs ≤ idx.toNat then .error (.raise .invalidState 6 idx)
      else .ok (cfg.msBase0 + cfg.msStride * idx.toNat) := by
  simp [baseAddress]

/-- R207. -/
theorem dividerByte_eq (cfg : Config) (r : BitVec 8) :
    dividerByte cfg r =
      if r.toNat ∉ legalDividers cfg then .error (.raise .invalidState 7 r)
      else .ok (cfg.rregFixed ||| BitVec.ofNat 8 (Nat.log2 r.toNat <<< 2)) := by
  simp [dividerByte]

end Sys2Proof.Machine
end

