-- ==== Sys2Proof/Laws/Encoding.lean ====
section
/-! SUPPORT. The encoder and the decoders at the parameters of this block, in the words of the encoding tables (30_encoding R92 to
R100): the provers cite these instead of unfolding the parameters. -/

namespace Sys2Proof

/-- The decoder of this block on a list that begins with a byte (30_encoding R93, R100, R103, R105). -/
theorem decode_cons (b : Byte) (rest : List Byte) :
    decode (b :: rest) =
      match decodeCommand b with
      | .ok i => .ok (i, rest)
      | .error _ =>
        match classOfMagic b with
        | none => .error (.unknownFirstByte b)
        | some k =>
          if rest.length < 15 then .error (.truncatedFrame b)
          else .ok (Config.std.frameFields k (frameOfBytes (b :: rest.take 15)), rest.drop 15) := rfl

theorem decodeFrame_eq (v : Frame) :
    decodeFrame v =
      match classOfMagic (v.extractLsb' 0 8) with
      | some k => .ok (Config.std.frameFields k v)
      | none => .error (.notAMagic (v.extractLsb' 0 8)) := rfl

/-- The command port's decoder answers only with commands. -/
theorem isCommand_of_decodeCommand {b : Byte} {i : Instr} (h : decodeCommand b = .ok i) : i.isCommand = true := by
  unfold decodeCommand Config.decodeCommand at h
  split at h
  · rename_i row hf
    cases h
    exact (by decide : ∀ r ∈ commandTable Config.std, r.2.isCommand = true) _ (List.mem_of_find?_eq_some hf)
  · cases h

/-- Little-endian fields lie in `V` as they are (20_memory R64). -/
@[simp] theorem inOrder_std {n : Nat} (x : BitVec n) : Config.std.inOrder x = x := rfl

theorem encode_frame8x8 (t f r : Byte) (a : BitVec 8) (d : BitVec 8) (p : BitVec 80) :
    encode (.frame8x8 t f r a d p) = frameBytes (p ++ d ++ a ++ r ++ f ++ t ++ 0x41#8) := rfl

theorem frameFields_8x8 (v : Frame) :
    Config.std.frameFields .c8x8 v = .frame8x8 (v.extractLsb' 8 8) (v.extractLsb' 16 8) (v.extractLsb' 24 8) (v.extractLsb' 32 8)
      (v.extractLsb' 40 8) (v.extractLsb' 48 80) := rfl

theorem encode_frame8x16 (t f r : Byte) (a : BitVec 8) (d : BitVec 16) (p : BitVec 72) :
    encode (.frame8x16 t f r a d p) = frameBytes (p ++ d ++ a ++ r ++ f ++ t ++ 0x42#8) := rfl

theorem frameFields_8x16 (v : Frame) :
    Config.std.frameFields .c8x16 v = .frame8x16 (v.extractLsb' 8 8) (v.extractLsb' 16 8) (v.extractLsb' 24 8) (v.extractLsb' 32 8)
      (v.extractLsb' 40 16) (v.extractLsb' 56 72) := rfl

theorem encode_frame8x32 (t f r : Byte) (a : BitVec 8) (d : BitVec 32) (p : BitVec 56) :
    encode (.frame8x32 t f r a d p) = frameBytes (p ++ d ++ a ++ r ++ f ++ t ++ 0x43#8) := rfl

theorem frameFields_8x32 (v : Frame) :
    Config.std.frameFields .c8x32 v = .frame8x32 (v.extractLsb' 8 8) (v.extractLsb' 16 8) (v.extractLsb' 24 8) (v.extractLsb' 32 8)
      (v.extractLsb' 40 32) (v.extractLsb' 72 56) := rfl

theorem encode_frame8x64 (t f r : Byte) (a : BitVec 8) (d : BitVec 64) (p : BitVec 24) :
    encode (.frame8x64 t f r a d p) = frameBytes (p ++ d ++ a ++ r ++ f ++ t ++ 0x44#8) := rfl

theorem frameFields_8x64 (v : Frame) :
    Config.std.frameFields .c8x64 v = .frame8x64 (v.extractLsb' 8 8) (v.extractLsb' 16 8) (v.extractLsb' 24 8) (v.extractLsb' 32 8)
      (v.extractLsb' 40 64) (v.extractLsb' 104 24) := rfl

theorem encode_frame16x64 (t f r : Byte) (a : BitVec 16) (d : BitVec 64) (p : BitVec 16) :
    encode (.frame16x64 t f r a d p) = frameBytes (p ++ d ++ a ++ r ++ f ++ t ++ 0x45#8) := rfl

theorem frameFields_16x64 (v : Frame) :
    Config.std.frameFields .c16x64 v = .frame16x64 (v.extractLsb' 8 8) (v.extractLsb' 16 8) (v.extractLsb' 24 8) (v.extractLsb' 32 16)
      (v.extractLsb' 48 64) (v.extractLsb' 112 16) := rfl

theorem encode_frame32x32 (t f r : Byte) (a : BitVec 32) (d : BitVec 32) (p : BitVec 32) :
    encode (.frame32x32 t f r a d p) = frameBytes (p ++ d ++ a ++ r ++ f ++ t ++ 0x4B#8) := rfl

theorem frameFields_32x32 (v : Frame) :
    Config.std.frameFields .c32x32 v = .frame32x32 (v.extractLsb' 8 8) (v.extractLsb' 16 8) (v.extractLsb' 24 8) (v.extractLsb' 32 32)
      (v.extractLsb' 64 32) (v.extractLsb' 96 32) := rfl

end Sys2Proof
end

