-- ==== Sys2Proof/Laws/Relation.lean ====
section
/-! SUPPORT. The step relation on the block, for every value of the parameters (10_state R35), and the machine of `State` are one
relation: with the parameters of this block, an instruction and an action do to a state what they do to its block. -/

namespace Sys2Proof.Machine

/-- The meanings of the instructions are the relation's commands, at the parameters of this block. -/
theorem exec_eq_execIn (i : Instr) (s : State) : exec i s = onBlock (execIn Config.std i) s := by
  cases i <;> rfl

/-- A state after an action on its block: what the action handed out is in front of `seen`, and the rest of the outside world is as
it was. -/
def State.after (s : State) (r : Block × Option Observation) : State :=
  { s with toBlock := r.1, seen := r.2.toList ++ s.seen }

/-- An action on a state is the relation of R35 on its block. -/
theorem act_eq_blockAct (a : Action) (s : State) :
    act a s =
      match blockAct Config.std a s.toBlock with
      | .next r => .next (s.after r)
      | .fault r => .fault r
      | .refused r => .refused r := by
  unfold act blockAct
  cases respond Config.std a s.toBlock with
  | done b => rfl
  | handed o b => rfl
  | stops r => rfl
  | starts i =>
    simp only [exec_eq_execIn, onBlock]
    cases execIn Config.std i s.toBlock <;> rfl

/-- An action in its turn, likewise. -/
theorem turn_eq_blockTurn (a : Action) (s : State) :
    turn a s =
      match blockTurn Config.std a s.toBlock with
      | .next r => .next (s.after r)
      | .fault r => .fault r
      | .refused r => .refused r := act_eq_blockAct a (refreshed s)

end Sys2Proof.Machine
end

