-- ==== Sys2Proof/Laws/Meanings.lean ====
section
/-! SUPPORT. What each instruction's meaning can answer, said once: its completed effect, or the recording of one of its causes.
The provers cite these instead of unfolding a meaning. -/

namespace Sys2Proof.Machine

/-- A command of the form "compute, then write the results" either wrote them or recorded the cause it raised. -/
theorem finish_map_next {α : Type} {s t : Block} {r : Except Abort α} {f : α → Block} (h : finish s (r.map f) = .next t) :
    (∃ a, r = .ok a ∧ t = f a) ∨ ∃ c sub val, r = .error (.raise c sub val) ∧ t = recordCause c sub val s := by
  rcases finish_next h with h | ⟨c, sub, val, h, ht⟩
  · obtain ⟨a, ha, rfl⟩ := map_eq_ok h
    exact .inl ⟨a, ha, rfl⟩
  · exact .inr ⟨c, sub, val, map_eq_error h, ht⟩

/-- Every cause `reduce` can raise (R174). -/
theorem reduceRate_error {cfg : Config} {x : Rate} {e : Abort} (h : reduceRate cfg x = .error e) :
    e = .raise .invalidState 3 0 ∨ e = .raise .rangeError 2 1 := by
  rw [reduceRate_eq] at h
  split_ifs at h <;> cases h <;> simp

/-- Every cause `double` can raise (R175). -/
theorem doubleRate_error {cfg : Config} {x : Rate} {e : Abort} (h : doubleRate cfg x = .error e) :
    e = .raise .invalidState 3 0 ∨ ∃ val, e = .raise .rangeError 2 val := by
  rw [doubleRate_eq] at h
  split_ifs at h
  · cases h
    exact .inl rfl
  · cases h
    exact .inr ⟨2, rfl⟩
  · cases h
    exact .inr ⟨3, rfl⟩
  · exact (reduceRate_error h).imp id (fun h => ⟨1, h⟩)

theorem searchDivider_error {cfg : Config} {n r : Nat} {x : Rate} {e : Abort} (h : searchDivider cfg n x r = .error e) :
    e = .raise .invalidState 3 0 ∨ ∃ val, e = .raise .rangeError 2 val := by
  induction n generalizing x r with
  | zero => cases h
  | succ n ih =>
    unfold searchDivider at h
    split_ifs at h
    rcases bind_eq_error h with h | ⟨x', _, h⟩
    · exact doubleRate_error h
    · exact ih h

theorem solveRate_error {cfg : Config} {x : Rate} {r : Nat} {e : Abort} (h : solveRate cfg x r = .error e) :
    ∃ sub val, sub ∈ [1#8, 2#8, 3#8] ∧ e = .raise .rangeError sub val := by
  rw [solveRate_eq] at h
  split_ifs at h with _ _ _ h0
  · cases h
    exact ⟨2, 4, by simp, rfl⟩
  · cases h
    exact ⟨2, 5, by simp, rfl⟩
  · cases h
    exact ⟨2, 6, by simp, rfl⟩
  · cases h
    exact ⟨3, 0, by simp, rfl⟩
  · rcases bind_eq_error h with h | ⟨q, _, h⟩
    · rw [reduceRate_eq] at h
      split_ifs at h
      · exact absurd ‹_› h0
      · cases h
        exact ⟨2, 1, by simp, rfl⟩
    · split_ifs at h
      cases h
      exact ⟨1, 0, by simp, rfl⟩

/-- Every cause CALCMS can raise (R186, R242, R243). -/
theorem calcMultisynth_error {cfg : Config} {dbl : BitVec 1} {x : Rate} {e : Abort} (h : calcMultisynth cfg dbl x = .error e) :
    e = .raise .invalidState 3 0 ∨ ∃ sub val, sub ∈ [1#8, 2#8, 3#8] ∧ e = .raise .rangeError sub val := by
  rw [calcMultisynth_eq] at h
  split_ifs at h
  · cases h
    exact .inl rfl
  all_goals
    rcases bind_eq_error h with h | ⟨x1, _, h⟩
    · first
        | exact (doubleRate_error h).imp id (fun ⟨val, h⟩ => ⟨2, val, by simp, h⟩)
        | cases h
    · rcases bind_eq_error h with h | ⟨xr, _, h⟩
      · exact (searchDivider_error h).imp id (fun ⟨val, h⟩ => ⟨2, val, by simp, h⟩)
      · exact .inr (solveRate_error h)

theorem packFields_error {cfg : Config} {a b c : Nat} {e : Abort} (h : packFields cfg a b c = .error e) :
    ∃ val, e = .raise .invalidState 4 val := by
  rw [packFields_eq] at h
  split_ifs at h <;> cases h <;> exact ⟨_, rfl⟩

theorem unpackFields_error {f : Fields} {e : Abort} (h : unpackFields f = .error e) : e = .raise .invalidState 5 0 := by
  rw [unpackFields_eq] at h
  split_ifs at h
  cases h
  rfl

/-- UNPACK's read of the image fails only at one of its ten bytes, for want of a value. -/
theorem fetchImage_error {cfg : Config} {m : Memory} {e : Abort} (h : fetchImage cfg m = .error e) :
    ∃ x, e = .unwritten x ∧ msregBase ≤ x ∧ x < msregBase + 10 := fetchBytes_eq_error (map_eq_error h)

/-- What BUILD.k can answer. -/
theorem buildFrame_next {k : FrameClass} {s t : Block} (h : buildFrame Config.std k s = .next t) :
    (∃ bs, buildBytes Config.std k s.fTid s.fFlags s.fAddr.toNat s.fData.toNat = .ok bs ∧ bs.length = 16 ∧
      t = endNormally (storeBytes txfBase bs s)) ∨
    ∃ val, t = recordCause .invalidState 2 val s := by
  rcases finish_map_next h with ⟨bs, hb, rfl⟩ | ⟨c, sub, val, hb, rfl⟩
  · exact .inl ⟨bs, hb, buildBytes_length hb, rfl⟩
  · obtain ⟨v, hv⟩ := buildBytes_raise hb
    cases hv
    exact .inr ⟨val, rfl⟩

/-- What PARSE.k can answer. -/
theorem parseFrame_next {cfg : Config} {k : FrameClass} {s t : Block} (h : parseFrame cfg k s = .next t) :
    (∃ p, parseBytes cfg k s.mem s.fTid = .ok p ∧ t = endParse p.flags (withParsed p s)) ∨
    ∃ sub val, (sub = 0 ∨ sub = 1) ∧ t = recordCause .protocolError sub val s := by
  rcases finish_map_next h with ⟨p, hp, rfl⟩ | ⟨c, sub, val, hp, rfl⟩
  · exact .inl ⟨p, hp, rfl⟩
  · rcases parseBytes_error hp with ⟨b, hb⟩ | ⟨_, b, hb⟩ | ⟨x, hx, _⟩
    · cases hb
      exact .inr ⟨0, _, .inl rfl, rfl⟩
    · cases hb
      exact .inr ⟨1, _, .inr rfl, rfl⟩
    · cases hx

theorem reduceCommand_next {s t : Block} (h : reduceCommand Config.std s = .next t) :
    (∃ x, reduceRate Config.std (rateOf s) = .ok x ∧ t = endNormally (withRate x s)) ∨
    t = recordCause .invalidState 3 0 s ∨ ∃ val, t = recordCause .rangeError 2 val s := by
  rcases finish_map_next h with ⟨x, hx, rfl⟩ | ⟨c, sub, val, hx, rfl⟩
  · exact .inl ⟨x, hx, rfl⟩
  · rcases reduceRate_error hx with he | he <;> cases he
    · exact .inr (.inl rfl)
    · exact .inr (.inr ⟨_, rfl⟩)

theorem doubleCommand_next {s t : Block} (h : doubleCommand Config.std s = .next t) :
    (∃ x, doubleRate Config.std (rateOf s) = .ok x ∧ t = endNormally (withRate x s)) ∨
    t = recordCause .invalidState 3 0 s ∨ ∃ val, t = recordCause .rangeError 2 val s := by
  rcases finish_map_next h with ⟨x, hx, rfl⟩ | ⟨c, sub, val, hx, rfl⟩
  · exact .inl ⟨x, hx, rfl⟩
  · rcases doubleRate_error hx with he | ⟨v, he⟩ <;> cases he
    · exact .inr (.inl rfl)
    · exact .inr (.inr ⟨_, rfl⟩)

theorem calcmsCommand_next {s t : Block} (h : calcmsCommand Config.std s = .next t) :
    (∃ m, calcMultisynth Config.std s.msDbl (rateOf s) = .ok m ∧ t = endNormally (withMultisynth m s)) ∨
    t = recordCause .invalidState 3 0 s ∨ ∃ sub val, sub ∈ [1#8, 2#8, 3#8] ∧ t = recordCause .rangeError sub val s := by
  rcases finish_map_next h with ⟨x, hx, rfl⟩ | ⟨c, sub, val, hx, rfl⟩
  · exact .inl ⟨x, hx, rfl⟩
  · rcases calcMultisynth_error hx with he | ⟨u, v, hu, he⟩ <;> cases he
    · exact .inr (.inl rfl)
    · exact .inr (.inr ⟨_, _, hu, rfl⟩)

theorem packCommand_next {s t : Block} (h : packCommand Config.std s = .next t) :
    (∃ f, packFields Config.std s.msA.toNat s.msB.toNat s.msC.toNat = .ok f ∧
      t = endNormally (storeBytes msregBase (imageBytes Config.std f) (withFields f s))) ∨
    ∃ val, t = recordCause .invalidState 4 val s := by
  rcases finish_map_next h with ⟨x, hx, rfl⟩ | ⟨c, sub, val, hx, rfl⟩
  · exact .inl ⟨x, hx, rfl⟩
  · obtain ⟨v, he⟩ := packFields_error hx
    cases he
    exact .inr ⟨_, rfl⟩

theorem unpackCommand_next {s t : Block} (h : unpackCommand Config.std s = .next t) :
    (∃ f abc, fetchImage Config.std s.mem = .ok f ∧ unpackFields f = .ok abc ∧ t = endNormally (withDivider abc (withFields f s))) ∨
    t = recordCause .invalidState 5 0 s := by
  rcases finish_next h with h | ⟨c, sub, val, hx, rfl⟩
  · obtain ⟨f, hf, h⟩ := bind_eq_ok h
    obtain ⟨abc, ha, h⟩ := bind_eq_ok h
    cases h
    exact .inl ⟨f, abc, hf, ha, rfl⟩
  · rcases bind_eq_error hx with h | ⟨f, _, h⟩
    · obtain ⟨x, hx, _⟩ := fetchImage_error h
      cases hx
    · rcases bind_eq_error h with h | ⟨_, _, h⟩
      · have he := unpackFields_error h
        cases he
        exact .inr rfl
      · cases h

theorem msaddrCommand_next {s t : Block} (h : msaddrCommand Config.std s = .next t) :
    (∃ b, baseAddress Config.std s.msIdx = .ok b ∧ t = endNormally (withBase b s)) ∨
    t = recordCause .invalidState 6 s.msIdx s := by
  rcases finish_map_next h with ⟨x, hx, rfl⟩ | ⟨c, sub, val, hx, rfl⟩
  · exact .inl ⟨x, hx, rfl⟩
  · rw [baseAddress_eq] at hx
    split_ifs at hx
    cases hx
    exact .inr rfl

theorem rencCommand_next {s t : Block} (h : rencCommand Config.std s = .next t) :
    (∃ b, dividerByte Config.std s.msR = .ok b ∧ t = endNormally (withRreg b s)) ∨
    t = recordCause .invalidState 7 s.msR s := by
  rcases finish_map_next h with ⟨x, hx, rfl⟩ | ⟨c, sub, val, hx, rfl⟩
  · exact .inl ⟨x, hx, rfl⟩
  · rw [dividerByte_eq] at hx
    split_ifs at hx
    cases hx
    exact .inr rfl

/-- What a command can do to the block: CLRERR's effect; results and no cause; (PARSE) results and a cause it records; a cause
it raises and nothing else. -/
inductive Ends (i : Instr) (s : Block) : Block → Prop
  | cleared : i = .clrerr → Ends i s (clearErrors s)
  | normally (u : Block) : u.errs = s.errs → u.errInfo = s.errInfo → Ends i s (endNormally u)
  | recorded (u : Block) (c : Cause) (sub val : Byte) : u.errs = s.errs → (c, sub) ∈ allowedCauses i →
      (c = .operationFailed ∨ u = s) → Ends i s (recordCause c sub val u)

theorem buildFrame_ends {i : Instr} {k : FrameClass} {s t : Block} (ha : allowedCauses i = [(.invalidState, 2)])
    (h : buildFrame Config.std k s = .next t) : Ends i s t := by
  rcases buildFrame_next h with ⟨bs, _, _, rfl⟩ | ⟨val, rfl⟩
  · exact .normally _ rfl rfl
  · exact .recorded s _ _ _ rfl (by simp [ha]) (.inr rfl)

theorem parseFrame_ends {i : Instr} {k : FrameClass} {s t : Block}
    (ha : allowedCauses i = [(.protocolError, 0), (.protocolError, 1), (.operationFailed, 2)])
    (h : parseFrame Config.std k s = .next t) : Ends i s t := by
  rcases parseFrame_next h with ⟨p, _, rfl⟩ | ⟨sub, val, hsub, rfl⟩
  · unfold endParse
    split_ifs
    · exact .recorded _ _ _ _ rfl (by simp [ha]) (.inl rfl)
    · exact .normally _ rfl rfl
  · exact .recorded s _ _ _ rfl (by rcases hsub with rfl | rfl <;> simp [ha]) (.inr rfl)

/-- How a command ends, whichever it is. -/
theorem exec_command_next {i : Instr} {s t : State} (hc : i.isCommand = true) (h : exec i s = .next t) :
    ∃ b, t = { s with toBlock := b } ∧ Ends i s.toBlock b := by
  cases i with
  | clrerr =>
    cases h
    exact ⟨_, rfl, .cleared rfl⟩
  | build8x8 =>
    obtain ⟨b, hb, ht⟩ := onBlock_next h
    exact ⟨b, ht, buildFrame_ends rfl hb⟩
  | build8x16 =>
    obtain ⟨b, hb, ht⟩ := onBlock_next h
    exact ⟨b, ht, buildFrame_ends rfl hb⟩
  | build8x32 =>
    obtain ⟨b, hb, ht⟩ := onBlock_next h
    exact ⟨b, ht, buildFrame_ends rfl hb⟩
  | build8x64 =>
    obtain ⟨b, hb, ht⟩ := onBlock_next h
    exact ⟨b, ht, buildFrame_ends rfl hb⟩
  | build16x64 =>
    obtain ⟨b, hb, ht⟩ := onBlock_next h
    exact ⟨b, ht, buildFrame_ends rfl hb⟩
  | build32x32 =>
    obtain ⟨b, hb, ht⟩ := onBlock_next h
    exact ⟨b, ht, buildFrame_ends rfl hb⟩
  | parse8x8 =>
    obtain ⟨b, hb, ht⟩ := onBlock_next h
    exact ⟨b, ht, parseFrame_ends rfl hb⟩
  | parse8x16 =>
    obtain ⟨b, hb, ht⟩ := onBlock_next h
    exact ⟨b, ht, parseFrame_ends rfl hb⟩
  | parse8x32 =>
    obtain ⟨b, hb, ht⟩ := onBlock_next h
    exact ⟨b, ht, parseFrame_ends rfl hb⟩
  | parse8x64 =>
    obtain ⟨b, hb, ht⟩ := onBlock_next h
    exact ⟨b, ht, parseFrame_ends rfl hb⟩
  | parse16x64 =>
    obtain ⟨b, hb, ht⟩ := onBlock_next h
    exact ⟨b, ht, parseFrame_ends rfl hb⟩
  | parse32x32 =>
    obtain ⟨b, hb, ht⟩ := onBlock_next h
    exact ⟨b, ht, parseFrame_ends rfl hb⟩
  | reduce =>
    obtain ⟨b, hb, ht⟩ := onBlock_next h
    refine ⟨b, ht, ?_⟩
    rcases reduceCommand_next hb with ⟨x, _, rfl⟩ | rfl | ⟨val, rfl⟩
    · exact .normally _ rfl rfl
    · exact .recorded s.toBlock _ _ _ rfl (by simp [allowedCauses]) (.inr rfl)
    · exact .recorded s.toBlock _ _ _ rfl (by simp [allowedCauses]) (.inr rfl)
  | double =>
    obtain ⟨b, hb, ht⟩ := onBlock_next h
    refine ⟨b, ht, ?_⟩
    rcases doubleCommand_next hb with ⟨x, _, rfl⟩ | rfl | ⟨val, rfl⟩
    · exact .normally _ rfl rfl
    · exact .recorded s.toBlock _ _ _ rfl (by simp [allowedCauses]) (.inr rfl)
    · exact .recorded s.toBlock _ _ _ rfl (by simp [allowedCauses]) (.inr rfl)
  | calcms =>
    obtain ⟨b, hb, ht⟩ := onBlock_next h
    refine ⟨b, ht, ?_⟩
    rcases calcmsCommand_next hb with ⟨x, _, rfl⟩ | rfl | ⟨sub, val, hsub, rfl⟩
    · exact .normally _ rfl rfl
    · exact .recorded s.toBlock _ _ _ rfl (by simp [allowedCauses]) (.inr rfl)
    · exact .recorded s.toBlock _ _ _ rfl (by simpa [allowedCauses] using hsub) (.inr rfl)
  | pack =>
    obtain ⟨b, hb, ht⟩ := onBlock_next h
    refine ⟨b, ht, ?_⟩
    rcases packCommand_next hb with ⟨x, _, rfl⟩ | ⟨val, rfl⟩
    · exact .normally _ rfl rfl
    · exact .recorded s.toBlock _ _ _ rfl (by simp [allowedCauses]) (.inr rfl)
  | unpack =>
    obtain ⟨b, hb, ht⟩ := onBlock_next h
    refine ⟨b, ht, ?_⟩
    rcases unpackCommand_next hb with ⟨f, x, _, _, rfl⟩ | rfl
    · exact .normally _ rfl rfl
    · exact .recorded s.toBlock _ _ _ rfl (by simp [allowedCauses]) (.inr rfl)
  | msaddr =>
    obtain ⟨b, hb, ht⟩ := onBlock_next h
    refine ⟨b, ht, ?_⟩
    rcases msaddrCommand_next hb with ⟨x, _, rfl⟩ | rfl
    · exact .normally _ rfl rfl
    · exact .recorded s.toBlock _ _ _ rfl (by simp [allowedCauses]) (.inr rfl)
  | renc =>
    obtain ⟨b, hb, ht⟩ := onBlock_next h
    refine ⟨b, ht, ?_⟩
    rcases rencCommand_next hb with ⟨x, _, rfl⟩ | rfl
    · exact .normally _ rfl rfl
    · exact .recorded s.toBlock _ _ _ rfl (by simp [allowedCauses]) (.inr rfl)
  | frame8x8 => cases hc
  | frame8x16 => cases hc
  | frame8x32 => cases hc
  | frame8x64 => cases hc
  | frame16x64 => cases hc
  | frame32x32 => cases hc

/-- A frame row's meaning is the delivery of its sixteen bytes. -/
theorem exec_row {i : Instr} (s : State) (h : i.isCommand = false) :
    exec i s = .next (s.mapBlock (deliverFrame Config.std (frameOfBytes (encode i)))) := by
  cases i <;> first | rfl | cases h

/-- What an instruction does to buffer space: nothing, or one store inside it. -/
theorem exec_mem {i : Instr} {s t : State} (h : exec i s = .next t) :
    t.mem = s.mem ∨ ∃ x bs, x + bs.length ≤ bufSize ∧ t.mem = Memory.writeBytes s.mem x bs := by
  have hbuild : ∀ k : FrameClass, onBlock (buildFrame Config.std k) s = .next t →
      t.mem = s.mem ∨ ∃ x bs, x + bs.length ≤ bufSize ∧ t.mem = Memory.writeBytes s.mem x bs := by
    intro k hk
    obtain ⟨b, hb, rfl⟩ := onBlock_next hk
    rcases buildFrame_next hb with ⟨bs, _, hl, rfl⟩ | ⟨val, rfl⟩
    · exact .inr ⟨txfBase, bs, by simp [txfBase, bufSize, hl], rfl⟩
    · exact .inl rfl
  have hparse : ∀ k : FrameClass, onBlock (parseFrame Config.std k) s = .next t → t.mem = s.mem := by
    intro k hk
    obtain ⟨b, hb, rfl⟩ := onBlock_next hk
    rcases parseFrame_next hb with ⟨p, _, rfl⟩ | ⟨sub, val, _, rfl⟩
    · unfold endParse
      split_ifs <;> rfl
    · rfl
  have hrow : ∀ f : Frame, (s.mapBlock (deliverFrame Config.std f)).mem = s.mem ∨
      ∃ x bs, x + bs.length ≤ bufSize ∧ (s.mapBlock (deliverFrame Config.std f)).mem = Memory.writeBytes s.mem x bs :=
    fun f => .inr ⟨rxfBase, frameBytes f, by simp [rxfBase, bufSize], by simp⟩
  cases i with
  | clrerr => cases h; exact .inl rfl
  | build8x8 => exact hbuild _ h
  | build8x16 => exact hbuild _ h
  | build8x32 => exact hbuild _ h
  | build8x64 => exact hbuild _ h
  | build16x64 => exact hbuild _ h
  | build32x32 => exact hbuild _ h
  | parse8x8 => exact .inl (hparse _ h)
  | parse8x16 => exact .inl (hparse _ h)
  | parse8x32 => exact .inl (hparse _ h)
  | parse8x64 => exact .inl (hparse _ h)
  | parse16x64 => exact .inl (hparse _ h)
  | parse32x32 => exact .inl (hparse _ h)
  | reduce =>
    obtain ⟨b, hb, rfl⟩ := onBlock_next h
    rcases reduceCommand_next hb with ⟨x, _, rfl⟩ | rfl | ⟨val, rfl⟩ <;> exact .inl rfl
  | double =>
    obtain ⟨b, hb, rfl⟩ := onBlock_next h
    rcases doubleCommand_next hb with ⟨x, _, rfl⟩ | rfl | ⟨val, rfl⟩ <;> exact .inl rfl
  | calcms =>
    obtain ⟨b, hb, rfl⟩ := onBlock_next h
    rcases calcmsCommand_next hb with ⟨x, _, rfl⟩ | rfl | ⟨sub, val, _, rfl⟩ <;> exact .inl rfl
  | pack =>
    obtain ⟨b, hb, rfl⟩ := onBlock_next h
    rcases packCommand_next hb with ⟨f, _, rfl⟩ | ⟨val, rfl⟩
    · exact .inr ⟨msregBase, _, by simp [msregBase, bufSize], rfl⟩
    · exact .inl rfl
  | unpack =>
    obtain ⟨b, hb, rfl⟩ := onBlock_next h
    rcases unpackCommand_next hb with ⟨f, x, _, _, rfl⟩ | rfl <;> exact .inl rfl
  | msaddr =>
    obtain ⟨b, hb, rfl⟩ := onBlock_next h
    rcases msaddrCommand_next hb with ⟨x, _, rfl⟩ | rfl <;> exact .inl rfl
  | renc =>
    obtain ⟨b, hb, rfl⟩ := onBlock_next h
    rcases rencCommand_next hb with ⟨x, _, rfl⟩ | rfl <;> exact .inl rfl
  | frame8x8 => rw [exec_row s rfl] at h; cases h; exact hrow _
  | frame8x16 => rw [exec_row s rfl] at h; cases h; exact hrow _
  | frame8x32 => rw [exec_row s rfl] at h; cases h; exact hrow _
  | frame8x64 => rw [exec_row s rfl] at h; cases h; exact hrow _
  | frame16x64 => rw [exec_row s rfl] at h; cases h; exact hrow _
  | frame32x32 => rw [exec_row s rfl] at h; cases h; exact hrow _

/-- No instruction takes a specified value from a register (10_state R37): it settles some registers, or none. -/
theorem exec_unset {i : Instr} {s t : State} (h : exec i s = .next t) : t.unset.Sublist s.unset := by
  have hbuild : ∀ k : FrameClass, onBlock (buildFrame Config.std k) s = .next t → t.unset.Sublist s.unset := by
    intro k hk
    obtain ⟨b, hb, rfl⟩ := onBlock_next hk
    rcases buildFrame_next hb with ⟨bs, _, hl, rfl⟩ | ⟨val, rfl⟩ <;> simp
  have hparse : ∀ k : FrameClass, onBlock (parseFrame Config.std k) s = .next t → t.unset.Sublist s.unset := by
    intro k hk
    obtain ⟨b, hb, rfl⟩ := onBlock_next hk
    rcases parseFrame_next hb with ⟨p, _, rfl⟩ | ⟨sub, val, _, rfl⟩
    · unfold endParse
      split_ifs <;> exact settle_sublist _ _
    · simp
  have hrow : ∀ f : Frame, (s.mapBlock (deliverFrame Config.std f)).unset.Sublist s.unset := fun f => by simp
  cases i with
  | clrerr => cases h; simp
  | build8x8 => exact hbuild _ h
  | build8x16 => exact hbuild _ h
  | build8x32 => exact hbuild _ h
  | build8x64 => exact hbuild _ h
  | build16x64 => exact hbuild _ h
  | build32x32 => exact hbuild _ h
  | parse8x8 => exact hparse _ h
  | parse8x16 => exact hparse _ h
  | parse8x32 => exact hparse _ h
  | parse8x64 => exact hparse _ h
  | parse16x64 => exact hparse _ h
  | parse32x32 => exact hparse _ h
  | reduce =>
    obtain ⟨b, hb, rfl⟩ := onBlock_next h
    rcases reduceCommand_next hb with ⟨x, _, rfl⟩ | rfl | ⟨val, rfl⟩
    · exact settle_sublist _ _
    · simp
    · simp
  | double =>
    obtain ⟨b, hb, rfl⟩ := onBlock_next h
    rcases doubleCommand_next hb with ⟨x, _, rfl⟩ | rfl | ⟨val, rfl⟩
    · exact settle_sublist _ _
    · simp
    · simp
  | calcms =>
    obtain ⟨b, hb, rfl⟩ := onBlock_next h
    rcases calcmsCommand_next hb with ⟨x, _, rfl⟩ | rfl | ⟨sub, val, _, rfl⟩
    · exact settle_sublist _ _
    · simp
    · simp
  | pack =>
    obtain ⟨b, hb, rfl⟩ := onBlock_next h
    rcases packCommand_next hb with ⟨f, _, rfl⟩ | ⟨val, rfl⟩
    · exact settle_sublist _ _
    · simp
  | unpack =>
    obtain ⟨b, hb, rfl⟩ := onBlock_next h
    rcases unpackCommand_next hb with ⟨f, x, _, _, rfl⟩ | rfl
    · have h1 := settle_sublist [.msP1, .msP2, .msP3] s.unset
      exact List.Sublist.trans (settle_sublist [.msA, .msB, .msC] _) h1
    · simp
  | msaddr =>
    obtain ⟨b, hb, rfl⟩ := onBlock_next h
    rcases msaddrCommand_next hb with ⟨x, _, rfl⟩ | rfl
    · exact settle_sublist _ _
    · simp
  | renc =>
    obtain ⟨b, hb, rfl⟩ := onBlock_next h
    rcases rencCommand_next hb with ⟨x, _, rfl⟩ | rfl
    · exact settle_sublist _ _
    · simp
  | frame8x8 => rw [exec_row s rfl] at h; cases h; exact hrow _
  | frame8x16 => rw [exec_row s rfl] at h; cases h; exact hrow _
  | frame8x32 => rw [exec_row s rfl] at h; cases h; exact hrow _
  | frame8x64 => rw [exec_row s rfl] at h; cases h; exact hrow _
  | frame16x64 => rw [exec_row s rfl] at h; cases h; exact hrow _
  | frame32x32 => rw [exec_row s rfl] at h; cases h; exact hrow _

/-- A delivered frame with a class's magic runs its row, which delivers its sixteen bytes. -/
theorem exec_frame {f : Frame} {i : Instr} (s : State) (h : decodeFrame f = .ok i) :
    exec i s = .next (s.mapBlock (deliverFrame Config.std (frameOfBytes (encode i)))) := by
  unfold decodeFrame Config.decodeFrame at h
  split at h
  · rename_i k _
    cases h
    cases k <;> rfl
  · cases h

/-- What a port's read of buffer space can answer: it hands something out, or stops at a byte nothing has written. -/
theorem handOut_cases (b : Block) {r : Except Abort Observation} (hr : ∀ c sub val, r ≠ .error (.raise c sub val)) :
    (∃ o, r = .ok o ∧ handOut b r = .handed o b) ∨ ∃ x, r = .error (.unwritten x) ∧ handOut b r = .stops (.unwrittenByte x) := by
  match r, hr with
  | .ok o, _ => exact .inl ⟨o, rfl, rfl⟩
  | .error (.unwritten x), _ => exact .inr ⟨x, rfl, rfl⟩
  | .error (.raise c sub val), hr => exact absurd rfl (hr c sub val)

/-- What an action can do at the block's ports: start a command or a frame row, record a bad access, write a register the host may
write, hand something out, store to buffer space, reset, or stop at a byte nothing has written. -/
theorem respond_cases (a : Action) (b : Block) :
    (∃ i v, decodeCommand (BitVec.ofNat 8 v) = .ok i ∧ v < 256 ∧ a = .wr 0 v ∧ respond Config.std a b = .starts i) ∨
    (∃ i f, decodeFrame f = .ok i ∧ a = .deliver f ∧ respond Config.std a b = .starts i) ∨
    (∃ sub val, respond Config.std a b = .done (recordCause .invalidState sub val b)) ∨
    (∃ o sub val, respond Config.std a b = .handed o (recordCause .invalidState sub val b)) ∨
    (∃ r v, regAccess r = .readWrite ∧ respond Config.std a b = .done (writeReg r v b)) ∨
    (∃ o, respond Config.std a b = .handed o b) ∨
    (∃ x bs, x + bs.length ≤ bufSize ∧ respond Config.std a b = .done (storeBytes x bs b)) ∨
    (a = .reset ∧ respond Config.std a b = .done (resetBlock Config.std b)) ∨
    (∃ x, respond Config.std a b = .stops (.unwrittenByte x)) := by
  cases a with
  | wr i v =>
    simp only [respond, hostWrite]
    split
    · exact .inr (.inr (.inl ⟨_, _, rfl⟩))
    · rename_i r hr
      split_ifs with h1 h2 h3
      · exact .inr (.inr (.inl ⟨_, _, rfl⟩))
      · exact .inr (.inr (.inl ⟨_, _, rfl⟩))
      · subst h3
        have hi : i = 0 := by
          have hlt : i < regList.length := by
            by_contra hge
            simp [regOf, List.getElem?_eq_none (by omega : regList.length ≤ i)] at hr
          simp only [regList, List.length_cons, List.length_nil] at hlt
          revert hr
          interval_cases i <;> simp [regOf, regList]
        subst hi
        unfold commandByte
        split
        · rename_i j hj
          exact .inl ⟨j, v, hj, by simpa [regWidth] using h2, rfl, rfl⟩
        · exact .inr (.inr (.inl ⟨_, _, rfl⟩))
      · refine .inr (.inr (.inr (.inr (.inl ⟨r, v, ?_, rfl⟩))))
        cases r <;> first | rfl | exact absurd rfl h1 | exact absurd rfl h3
  | rd i =>
    simp only [respond, hostRead]
    split
    · exact .inr (.inr (.inr (.inl ⟨_, _, _, rfl⟩)))
    · exact .inr (.inr (.inr (.inr (.inr (.inl ⟨_, rfl⟩)))))
  | stb x v =>
    simp only [respond, hostStore]
    split_ifs
    · exact .inr (.inr (.inl ⟨_, _, rfl⟩))
    · exact .inr (.inr (.inr (.inr (.inr (.inr (.inl ⟨_, _, by simp; omega, rfl⟩))))))
  | ldb x =>
    simp only [respond, hostLoad]
    split_ifs
    · exact .inr (.inr (.inr (.inl ⟨_, _, _, rfl⟩)))
    · rcases handOut_cases b (r := (fetchByte b.mem x).map (fun v => .hostReceived (v.setWidth 64)))
        (fun c sub val he => by cases fetchByte_eq_error (map_eq_error he)) with ⟨o, _, h⟩ | ⟨y, _, h⟩
      · exact .inr (.inr (.inr (.inr (.inr (.inl ⟨o, h⟩)))))
      · exact .inr (.inr (.inr (.inr (.inr (.inr (.inr (.inr ⟨y, h⟩)))))))
  | take =>
    rcases handOut_cases b (r := (fetchBytes b.mem txfBase Config.std.frameLen).map (fun bs => .requestLeft (frameOfBytes bs)))
      (fun c sub val he => by
        obtain ⟨x, hx, _⟩ := fetchBytes_eq_error (map_eq_error he)
        cases hx) with ⟨o, _, h⟩ | ⟨y, _, h⟩
    · exact .inr (.inr (.inr (.inr (.inr (.inl ⟨o, h⟩)))))
    · exact .inr (.inr (.inr (.inr (.inr (.inr (.inr (.inr ⟨y, h⟩)))))))
  | deliver f =>
    simp only [respond, transportDeliver]
    split
    · rename_i i hi
      exact .inr (.inl ⟨i, f, hi, rfl, rfl⟩)
    · exact .inr (.inr (.inr (.inr (.inr (.inr (.inl ⟨rxfBase, frameBytes f, by simp [rxfBase, bufSize], rfl⟩))))))
  | reset => exact .inr (.inr (.inr (.inr (.inr (.inr (.inr (.inl ⟨rfl, rfl⟩)))))))

theorem act_of_done {a : Action} {s : State} {b : Block} (h : respond Config.std a s.toBlock = .done b) :
    act a s = .next { s with toBlock := b } := by simp only [act, h]

theorem act_of_handed {a : Action} {s : State} {o : Observation} {b : Block} (h : respond Config.std a s.toBlock = .handed o b) :
    act a s = .next (observe o { s with toBlock := b }) := by simp only [act, h]

theorem act_of_starts {a : Action} {s : State} {i : Instr} (h : respond Config.std a s.toBlock = .starts i) : act a s = exec i s := by
  simp only [act, h]

theorem act_of_stops {a : Action} {s : State} {r : Fault} (h : respond Config.std a s.toBlock = .stops r) : act a s = .fault r := by
  simp only [act, h]

/-- A write of an opcode to `CMD` runs its command in the same action (10_state R22). -/
theorem act_command {v : Nat} {i : Instr} (s : State) (hv : v < 256) (hd : decodeCommand (BitVec.ofNat 8 v) = .ok i) :
    act (.wr 0 v) s = exec i s := by
  have hd' : Config.std.decodeCommand (BitVec.ofNat 8 v) = .ok i := hd
  apply act_of_starts
  simp [respond, hostWrite, regOf, regList, regAccess, regWidth, commandByte, hd', Nat.not_le.mpr hv]

/-- A delivered frame with a class's magic runs its row (44_system R228; log 6). -/
theorem act_frame {f : Frame} {i : Instr} (s : State) (hd : decodeFrame f = .ok i) : act (.deliver f) s = exec i s := by
  have hd' : Config.std.decodeFrame f = .ok i := hd
  apply act_of_starts
  simp only [respond, transportDeliver, hd']

/-- What an action can do: run a command, record a bad access, write a register the host may write, hand something out, store to
buffer space, or reset. -/
theorem act_next {a : Action} {s t : State} (h : act a s = .next t) :
    (∃ i v, decodeCommand (BitVec.ofNat 8 v) = .ok i ∧ v < 256 ∧ a = .wr 0 v ∧ exec i s = .next t) ∨
    (∃ u sub val, (u = s ∨ ∃ o, u = observe o s) ∧ t = u.mapBlock (recordCause .invalidState sub val)) ∨
    (∃ r v, regAccess r = .readWrite ∧ t = s.mapBlock (writeReg r v)) ∨
    (∃ o, t = observe o s) ∨
    (∃ x bs, x + bs.length ≤ bufSize ∧ t = s.mapBlock (storeBytes x bs)) ∨
    (a = .reset ∧ t = s.mapBlock (resetBlock Config.std)) := by
  rcases respond_cases a s.toBlock with ⟨i, v, hd, hv, ha, hr⟩ | ⟨i, f, hd, _, hr⟩ | ⟨sub, val, hr⟩ | ⟨o, sub, val, hr⟩ |
    ⟨r, v, hw, hr⟩ | ⟨o, hr⟩ | ⟨x, bs, hx, hr⟩ | ⟨ha, hr⟩ | ⟨x, hr⟩
  · rw [act_of_starts hr] at h
    exact .inl ⟨i, v, hd, hv, ha, h⟩
  · rw [act_of_starts hr, exec_frame s hd] at h
    cases h
    exact .inr (.inr (.inr (.inr (.inl ⟨rxfBase, frameBytes (frameOfBytes (encode i)), by simp [rxfBase, bufSize], rfl⟩))))
  · rw [act_of_done hr] at h
    cases h
    exact .inr (.inl ⟨s, sub, val, .inl rfl, rfl⟩)
  · rw [act_of_handed hr] at h
    cases h
    exact .inr (.inl ⟨observe o s, sub, val, .inr ⟨o, rfl⟩, rfl⟩)
  · rw [act_of_done hr] at h
    cases h
    exact .inr (.inr (.inl ⟨r, v, hw, rfl⟩))
  · rw [act_of_handed hr] at h
    cases h
    exact .inr (.inr (.inr (.inl ⟨o, rfl⟩)))
  · rw [act_of_done hr] at h
    cases h
    exact .inr (.inr (.inr (.inr (.inl ⟨x, bs, hx, rfl⟩))))
  · rw [act_of_done hr] at h
    cases h
    exact .inr (.inr (.inr (.inr (.inr ⟨ha, rfl⟩))))
  · rw [act_of_stops hr] at h
    cases h

/-- The sub-code is the high byte of `ERRINFO`, the value the low one (10_state R25). -/
theorem errInfoOf_sub (sub val : Byte) : (errInfoOf sub val).extractLsb' 8 8 = sub := by
  have hs := sub.isLt
  have hv := val.isLt
  apply BitVec.eq_of_toNat_eq
  simp only [errInfoOf, BitVec.extractLsb'_toNat, BitVec.toNat_append, Nat.shiftRight_eq_div_pow, Nat.shiftLeft_eq,
    ← Nat.two_pow_add_eq_or_of_lt hv, Nat.mul_comm sub.toNat]
  omega

theorem errInfoOf_val (sub val : Byte) : (errInfoOf sub val).extractLsb' 0 8 = val := by
  have hs := sub.isLt
  have hv := val.isLt
  apply BitVec.eq_of_toNat_eq
  simp only [errInfoOf, BitVec.extractLsb'_toNat, BitVec.toNat_append, Nat.shiftRight_eq_div_pow, Nat.shiftLeft_eq,
    ← Nat.two_pow_add_eq_or_of_lt hv, Nat.mul_comm sub.toNat]
  omega

/-- Between actions nothing changes (20_memory R70). -/
theorem step_of_idle {s : State} (h : s.pending = []) : step s = .next s := by
  unfold step nextAction
  rw [h]

/-- A step is the next action in its turn (20_memory R75). -/
theorem step_of_pending {s : State} {a : Action} {rest : List Action} (h : s.pending = a :: rest) :
    step s = turn a { s with pending := rest } := by
  unfold step nextAction
  rw [h]

end Sys2Proof.Machine
end

