-- ==== Sys2Proof/Laws/PerInstr.lean ====
section
/-! SUPPORT. A fact of every instruction as syntax, one lemma a constructor: how long its encoding is
(30_encoding R90: "every frame is exactly 16 bytes"; R106: "the command byte is always one byte"). -/

namespace Sys2Proof.Laws.EncodeLength

/-- The length of an encoding: one byte for a command, sixteen for a frame. -/
def Statement (i : Instr) : Prop := (encode i).length = if i.isCommand then 1 else 16

theorem clrerr : Statement .clrerr := rfl

theorem build8x8 : Statement .build8x8 := rfl

theorem build8x16 : Statement .build8x16 := rfl

theorem build8x32 : Statement .build8x32 := rfl

theorem build8x64 : Statement .build8x64 := rfl

theorem build16x64 : Statement .build16x64 := rfl

theorem build32x32 : Statement .build32x32 := rfl

theorem parse8x8 : Statement .parse8x8 := rfl

theorem parse8x16 : Statement .parse8x16 := rfl

theorem parse8x32 : Statement .parse8x32 := rfl

theorem parse8x64 : Statement .parse8x64 := rfl

theorem parse16x64 : Statement .parse16x64 := rfl

theorem parse32x32 : Statement .parse32x32 := rfl

theorem reduce : Statement .reduce := rfl

theorem double : Statement .double := rfl

theorem calcms : Statement .calcms := rfl

theorem pack : Statement .pack := rfl

theorem unpack : Statement .unpack := rfl

theorem msaddr : Statement .msaddr := rfl

theorem renc : Statement .renc := rfl

theorem frame8x8 (target flags reserved : Byte) (addr : BitVec 8) (data : BitVec 8) (padding : BitVec 80) :
    Statement (.frame8x8 target flags reserved addr data padding) := frameBytes_length _

theorem frame8x16 (target flags reserved : Byte) (addr : BitVec 8) (data : BitVec 16) (padding : BitVec 72) :
    Statement (.frame8x16 target flags reserved addr data padding) := frameBytes_length _

theorem frame8x32 (target flags reserved : Byte) (addr : BitVec 8) (data : BitVec 32) (padding : BitVec 56) :
    Statement (.frame8x32 target flags reserved addr data padding) := frameBytes_length _

theorem frame8x64 (target flags reserved : Byte) (addr : BitVec 8) (data : BitVec 64) (padding : BitVec 24) :
    Statement (.frame8x64 target flags reserved addr data padding) := frameBytes_length _

theorem frame16x64 (target flags reserved : Byte) (addr : BitVec 16) (data : BitVec 64) (padding : BitVec 16) :
    Statement (.frame16x64 target flags reserved addr data padding) := frameBytes_length _

theorem frame32x32 (target flags reserved : Byte) (addr : BitVec 32) (data : BitVec 32) (padding : BitVec 32) :
    Statement (.frame32x32 target flags reserved addr data padding) := frameBytes_length _

end Sys2Proof.Laws.EncodeLength
end

