-- ==== Sys2Proof/Tests/Slice0.lean ====
section
/-! SUPPORT. The model's own tests. Expected values are the vectors of spec/95_test_vectors.md (named in each comment) or worked out
by hand from the rule named; then, for every statement with hypotheses, a witness that meets them. -/

namespace Sys2Proof.Machine.Tests

open Sys2Proof Sys2Proof.Machine

/-- A field of the next state; `none` where the machine stops. -/
def after {σ α : Type} (o : Host.Outcome σ Fault Refusal) (f : σ → α) : Option α :=
  match o with
  | .next t => some (f t)
  | _ => none

/-- `LAST_ERR`, `ERRS`, `ERRINFO`. -/
def errorsOf (s : State) : Nat × Nat × Nat := (s.lastErr.toNat, s.errs.toNat, s.errInfo.toNat)

/-- A state with the four BUILD operands. -/
def operands (t f : Byte) (a : BitVec 32) (d : BitVec 64) : State :=
  { State.reset with fTid := t, fFlags := f, fAddr := a, fData := d }

/-- A state with bytes in buffer space. -/
def holding (a : Nat) (bs : List Byte) (s : State) : State := s.mapBlock (storeBytes a bs)

/-- A state with an expected target and bytes in RXF. -/
def received (t : Byte) (bs : List Byte) : State := holding rxfBase bs { State.reset with fTid := t }

/-- A state with a rate and the doubling flag. -/
def rate (i n d : BitVec 64) (dbl : BitVec 1) : State := { State.reset with rInt := i, rNum := n, rDen := d, msDbl := dbl }

/-- A state with a divider a + b/c. -/
def divider (a : BitVec 16) (b c : BitVec 32) : State := { State.reset with msA := a, msB := b, msC := c }

/-- The bytes of a memory, lowest address first. -/
def bytesOf (s : State) : List Byte := s.mem.map (fun c => c.2)

/-- The five results of PARSE. -/
def parsedOf (s : State) : Nat × Nat × Nat × Nat × Nat :=
  (s.pTid.toNat, s.pFlags.toNat, s.pAddr.toNat, s.pData.toNat, s.pSuccess.toNat)

/-- The rate registers. -/
def rateRegs (s : State) : Nat × Nat × Nat := (s.rInt.toNat, s.rNum.toNat, s.rDen.toNat)

/-- CALCMS's results. -/
def solution (s : State) : Nat × Nat × Nat × Nat := (s.msA.toNat, s.msB.toNat, s.msC.toNat, s.msR.toNat)

/-! Well-formedness: each check refuses an ill-formed frame, and accepts the frame BUILD makes. -/

theorem test_wf_refuses_reserved_8x8 : Instr.wf (.frame8x8 0 0 1 0 0 0) = false := by decide
theorem test_wf_refuses_padding_8x8 : Instr.wf (.frame8x8 0 0 0 0 0 1) = false := by decide
theorem test_wf_refuses_reserved_8x16 : Instr.wf (.frame8x16 0 0 1 0 0 0) = false := by decide
theorem test_wf_refuses_padding_8x16 : Instr.wf (.frame8x16 0 0 0 0 0 1) = false := by decide
theorem test_wf_refuses_reserved_8x32 : Instr.wf (.frame8x32 0 0 1 0 0 0) = false := by decide
theorem test_wf_refuses_padding_8x32 : Instr.wf (.frame8x32 0 0 0 0 0 1) = false := by decide
theorem test_wf_refuses_reserved_8x64 : Instr.wf (.frame8x64 0 0 1 0 0 0) = false := by decide
theorem test_wf_refuses_padding_8x64 : Instr.wf (.frame8x64 0 0 0 0 0 1) = false := by decide
theorem test_wf_refuses_reserved_16x64 : Instr.wf (.frame16x64 0 0 1 0 0 0) = false := by decide
theorem test_wf_refuses_padding_16x64 : Instr.wf (.frame16x64 0 0 0 0 0 1) = false := by decide
theorem test_wf_refuses_reserved_32x32 : Instr.wf (.frame32x32 0 0 1 0 0 0) = false := by decide
theorem test_wf_refuses_padding_32x32 : Instr.wf (.frame32x32 0 0 0 0 0 1) = false := by decide
theorem test_wf_accepts_built : Instr.wf (.frame8x8 0x00 0x01 0 0x45 0x0B 0) = true := by decide
theorem test_wf_accepts_command : Instr.wf .calcms = true := by decide

/-! Decoding: the words of the encodings, written out (30_encoding R100, R94 to R99; the frames are B1, B3, B4, B6, B7, B8). -/

theorem test_decode_clrerr : decodeCommand 0b00000001 = .ok .clrerr := rfl
theorem test_decode_build8x8 : decodeCommand 0b00010000 = .ok .build8x8 := rfl
theorem test_decode_build8x16 : decodeCommand 0b00010001 = .ok .build8x16 := rfl
theorem test_decode_build8x32 : decodeCommand 0b00010010 = .ok .build8x32 := rfl
theorem test_decode_build8x64 : decodeCommand 0b00010011 = .ok .build8x64 := rfl
theorem test_decode_build16x64 : decodeCommand 0b00010100 = .ok .build16x64 := rfl
theorem test_decode_build32x32 : decodeCommand 0b00010101 = .ok .build32x32 := rfl
theorem test_decode_parse8x8 : decodeCommand 0b00100000 = .ok .parse8x8 := rfl
theorem test_decode_parse8x16 : decodeCommand 0b00100001 = .ok .parse8x16 := rfl
theorem test_decode_parse8x32 : decodeCommand 0b00100010 = .ok .parse8x32 := rfl
theorem test_decode_parse8x64 : decodeCommand 0b00100011 = .ok .parse8x64 := rfl
theorem test_decode_parse16x64 : decodeCommand 0b00100100 = .ok .parse16x64 := rfl
theorem test_decode_parse32x32 : decodeCommand 0b00100101 = .ok .parse32x32 := rfl
theorem test_decode_reduce : decodeCommand 0b00110000 = .ok .reduce := rfl
theorem test_decode_double : decodeCommand 0b00110001 = .ok .double := rfl
theorem test_decode_calcms : decodeCommand 0b00110010 = .ok .calcms := rfl
theorem test_decode_pack : decodeCommand 0b00110011 = .ok .pack := rfl
theorem test_decode_unpack : decodeCommand 0b00110100 = .ok .unpack := rfl
theorem test_decode_msaddr : decodeCommand 0b00110101 = .ok .msaddr := rfl
theorem test_decode_renc : decodeCommand 0b00110110 = .ok .renc := rfl
theorem test_decode_frame8x8 :
    decode [0x41, 0x00, 0x01, 0x00, 0x45, 0x0B, 0x00, 0x00, 0x00, 0x00, 0x00, 0x00, 0x00, 0x00, 0x00, 0x00] =
      .ok (.frame8x8 0x00 0x01 0x00 0x45 0x0B 0, []) := rfl
theorem test_decode_frame8x16 :
    decode [0x42, 0x00, 0x01, 0x00, 0x08, 0xEF, 0xBE, 0x00, 0x00, 0x00, 0x00, 0x00, 0x00, 0x00, 0x00, 0x00] =
      .ok (.frame8x16 0x00 0x01 0x00 0x08 0xBEEF 0, []) := rfl
theorem test_decode_frame8x32 :
    decode [0x43, 0x01, 0x01, 0x00, 0x00, 0x57, 0x00, 0x01, 0x00, 0x00, 0x00, 0x00, 0x00, 0x00, 0x00, 0x00] =
      .ok (.frame8x32 0x01 0x01 0x00 0x00 0x00010057 0, []) := rfl
theorem test_decode_frame8x64 :
    decode [0x44, 0x12, 0x03, 0x00, 0xFE, 0xEF, 0xCD, 0xAB, 0x89, 0x67, 0x45, 0x23, 0x01, 0x00, 0x00, 0x00] =
      .ok (.frame8x64 0x12 0x03 0x00 0xFE 0x0123456789ABCDEF 0, []) := rfl
theorem test_decode_frame16x64 :
    decode [0x45, 0x07, 0x01, 0x00, 0xB2, 0xA1, 0x88, 0x99, 0xAA, 0xBB, 0xCC, 0xDD, 0xEE, 0xFF, 0x00, 0x00] =
      .ok (.frame16x64 0x07 0x01 0x00 0xA1B2 0xFFEEDDCCBBAA9988 0, []) := rfl
theorem test_decode_frame32x32 :
    decode [0x4B, 0x00, 0x01, 0x00, 0xEF, 0xBE, 0xAD, 0xDE, 0x78, 0x56, 0x34, 0x12, 0x00, 0x00, 0x00, 0x00] =
      .ok (.frame32x32 0x00 0x01 0x00 0xDEADBEEF 0x12345678 0, []) := rfl
/-- Reserved byte and padding are fields of the frame, at bits 31:24 and 127:48 (R94; the bytes of A11p). -/
theorem test_decode_frame8x8_ill_formed :
    decode [0x41, 0x01, 0x00, 0xEE, 0x36, 0x55, 0x77, 0xFF, 0xFF, 0xFF, 0xFF, 0xFF, 0xFF, 0xFF, 0xFF, 0xFF] =
      .ok (.frame8x8 0x01 0x00 0xEE 0x36 0x55 0xFFFFFFFFFFFFFFFFFF77, []) := rfl
theorem test_decode_gap_in_magics : decode [0x46, 0, 0, 0, 0, 0, 0, 0, 0, 0, 0, 0, 0, 0, 0, 0] = .error (.unknownFirstByte 0x46) := rfl
theorem test_decode_truncated : decode [0x41, 0, 0] = .error (.truncatedFrame 0x41) := rfl
theorem test_command_port_refuses_magic : decodeCommand 0x41 = .error (.notAnOpcode 0x41) := rfl
theorem test_frame_port_refuses_opcode : decodeFrame 0x10 = .error (.notAMagic 0x10) := rfl
/-- No two opcodes are equal, and no opcode is a magic. -/
theorem test_opcodes_distinct : ((commandTable Config.std).map (fun r => r.1)).Nodup := by decide
theorem test_no_opcode_is_a_magic : (commandTable Config.std).all (fun r => (classOfMagic r.1).isNone) = true := by decide
theorem test_table_word_command : decodeTableWord 8 0x32 = some .calcms := by decide
theorem test_table_word_frame : decodeTableWord 8 0x4B = some (.frame32x32 0 0 0 0 0 0) := by decide
/-- The example of R205, MS_IDX written -/
theorem test_fetch_word_runs : after (step (State.withFetchWord { State.reset with msIdx := 2 } 8 0x35))
    (fun t => (t.msBase.toNat, t.pending)) = some (75, []) := by decide
theorem test_fetch_frame_runs : after (step (State.reset.withFetchWord 128 0x0B4500010041)) (fun t => (bytesOf t).take 6) =
    some [0x41, 0x00, 0x01, 0x00, 0x45, 0x0B] := by decide

/-! BUILD (95_test_vectors 2.1). -/

/-- B1 -/
theorem test_build8x8 : after (exec .build8x8 (operands 0x00 0x01 0x45 0x0B)) bytesOf =
    some [0x41, 0x00, 0x01, 0x00, 0x45, 0x0B, 0x00, 0x00, 0x00, 0x00, 0x00, 0x00, 0x00, 0x00, 0x00, 0x00] := by decide
/-- B3 -/
theorem test_build8x16 : after (exec .build8x16 (operands 0x00 0x01 0x08 0xBEEF)) bytesOf =
    some [0x42, 0x00, 0x01, 0x00, 0x08, 0xEF, 0xBE, 0x00, 0x00, 0x00, 0x00, 0x00, 0x00, 0x00, 0x00, 0x00] := by decide
/-- B4 -/
theorem test_build8x32 : after (exec .build8x32 (operands 0x01 0x01 0x00 0x00010057)) bytesOf =
    some [0x43, 0x01, 0x01, 0x00, 0x00, 0x57, 0x00, 0x01, 0x00, 0x00, 0x00, 0x00, 0x00, 0x00, 0x00, 0x00] := by decide
/-- B6 -/
theorem test_build8x64 : after (exec .build8x64 (operands 0x12 0x03 0xFE 0x0123456789ABCDEF)) bytesOf =
    some [0x44, 0x12, 0x03, 0x00, 0xFE, 0xEF, 0xCD, 0xAB, 0x89, 0x67, 0x45, 0x23, 0x01, 0x00, 0x00, 0x00] := by decide
/-- B7 -/
theorem test_build16x64 : after (exec .build16x64 (operands 0x07 0x01 0xA1B2 0xFFEEDDCCBBAA9988)) bytesOf =
    some [0x45, 0x07, 0x01, 0x00, 0xB2, 0xA1, 0x88, 0x99, 0xAA, 0xBB, 0xCC, 0xDD, 0xEE, 0xFF, 0x00, 0x00] := by decide
/-- B8 -/
theorem test_build32x32 : after (exec .build32x32 (operands 0x00 0x01 0xDEADBEEF 0x12345678)) bytesOf =
    some [0x4B, 0x00, 0x01, 0x00, 0xEF, 0xBE, 0xAD, 0xDE, 0x78, 0x56, 0x34, 0x12, 0x00, 0x00, 0x00, 0x00] := by decide
/-- B11 -/
theorem test_build8x8_too_wide : after (exec .build8x8 (operands 0x00 0x01 0x100 0x1FF)) (fun t => (errorsOf t, t.mem)) =
    some ((6, 0x40, 0x0200), []) := by decide
/-- B13 -/
theorem test_build8x16_too_wide : after (exec .build8x16 (operands 0x00 0x01 0x08 0x10000)) (fun t => (errorsOf t, t.mem)) =
    some ((6, 0x40, 0x0201), []) := by decide
/-- B14 -/
theorem test_build16x64_too_wide : after (exec .build16x64 (operands 0x00 0x00 0x10000 0)) (fun t => (errorsOf t, t.mem)) =
    some ((6, 0x40, 0x0200), []) := by decide
/-- B15 -/
theorem test_build32x32_too_wide : after (exec .build32x32 (operands 0x00 0x00 0xFFFFFFFF 0x100000000)) (fun t => (errorsOf t, t.mem)) =
    some ((6, 0x40, 0x0201), []) := by decide

/-! PARSE (95_test_vectors 2.2). -/

/-- A1p -/
theorem test_parse8x8 :
    after (exec .parse8x8 (received 0x01 [0x41, 0x01, 0x02, 0x00, 0x35, 0xA7, 0x00, 0x00, 0x00, 0x00, 0x00, 0x00, 0x00, 0x00, 0x00, 0x00])) (fun t => (parsedOf t, t.lastErr)) =
      some ((0x01, 0x02, 0x35, 0xA7, 1), 0) := by decide
/-- A2p -/
theorem test_parse8x16 :
    after (exec .parse8x16 (received 0x00 [0x42, 0x00, 0x02, 0x00, 0x08, 0xEF, 0xBE, 0xFF, 0xFF, 0xFF, 0xFF, 0xFF, 0xFF, 0xFF, 0xFF, 0xFF])) (fun t => (parsedOf t, t.lastErr)) =
      some ((0x00, 0x02, 0x08, 0xBEEF, 1), 0) := by decide
/-- A3p -/
theorem test_parse8x32 :
    after (exec .parse8x32 (received 0x01 [0x43, 0x01, 0x03, 0x00, 0x00, 0x57, 0x00, 0x01, 0x00, 0x00, 0x00, 0x00, 0x00, 0x00, 0x00, 0x00])) (fun t => (parsedOf t, t.lastErr)) =
      some ((0x01, 0x03, 0x00, 0x00010057, 1), 0) := by decide
/-- A4p -/
theorem test_parse8x64 :
    after (exec .parse8x64 (received 0x12 [0x44, 0x12, 0x03, 0x00, 0xFE, 0xEF, 0xCD, 0xAB, 0x89, 0x67, 0x45, 0x23, 0x01, 0xAA, 0xBB, 0xCC])) (fun t => (parsedOf t, t.lastErr)) =
      some ((0x12, 0x03, 0xFE, 0x0123456789ABCDEF, 1), 0) := by decide
/-- A5p -/
theorem test_parse16x64 :
    after (exec .parse16x64 (received 0x07 [0x45, 0x07, 0x02, 0x00, 0xB2, 0xA1, 0x88, 0x99, 0xAA, 0xBB, 0xCC, 0xDD, 0xEE, 0xFF, 0x00, 0x00])) (fun t => (parsedOf t, t.lastErr)) =
      some ((0x07, 0x02, 0xA1B2, 0xFFEEDDCCBBAA9988, 1), 0) := by decide
/-- A6p -/
theorem test_parse32x32 :
    after (exec .parse32x32 (received 0x00 [0x4B, 0x00, 0x02, 0x00, 0xEF, 0xBE, 0xAD, 0xDE, 0x78, 0x56, 0x34, 0x12, 0x00, 0x00, 0x00, 0x00])) (fun t => (parsedOf t, t.lastErr)) =
      some ((0x00, 0x02, 0xDEADBEEF, 0x12345678, 1), 0) := by decide
/-- A10p: the magic is tested first -/
theorem test_parse8x8_magic_first : after (exec .parse8x8 (received 0x01 [0x42, 0x00, 0x02, 0x00, 0x35, 0x99])) errorsOf =
    some (2, 0x04, 0x0042) := by decide
/-- A9p with P_DATA holding an old value: a raising PARSE writes no result -/
theorem test_parse8x8_target_mismatch :
    after (exec .parse8x8 { received 0x01 [0x41, 0x00, 0x02, 0x00, 0x35, 0x99] with pData := 0xA7 })
      (fun t => (errorsOf t, t.pData)) = some ((2, 0x04, 0x0100), 0xA7) := by decide
/-- the example of R157: OperationFailed recorded, results written -/
theorem test_parse16x64_success_clear :
    after (exec .parse16x64 (received 0x07 [0x45, 0x07, 0x01, 0x00, 0xB2, 0xA1, 0x88, 0x99, 0xAA, 0xBB, 0xCC, 0xDD, 0xEE, 0xFF]))
      (fun t => (parsedOf t, errorsOf t)) = some ((0x07, 0x01, 0xA1B2, 0xFFEEDDCCBBAA9988, 0), (3, 0x08, 0x0201)) := by decide
/-- A15p: CHECK_TARGET false -/
theorem test_parse8x8_no_target_check :
    after (parseFrame { Config.std with checkTarget := false } .c8x8 (received 0x01 [0x41, 0x00, 0x02, 0x00, 0x35, 0x99]).toBlock)
      (fun t => (t.pTid, t.pFlags, t.pAddr, t.pData, t.pSuccess, t.lastErr)) = some (0x00, 0x02, 0x35, 0x99, 1, 0) := by decide
/-- R37, R283: the first PARSE after reset reads an unwritten RXF -/
theorem test_parse8x8_unwritten : exec .parse8x8 State.reset = .fault (.unwrittenByte 0x10) := rfl

/-! REDUCE and DOUBLE (95_test_vectors 2.3). -/

/-- Q7 -/
theorem test_reduce : after (exec .reduce (rate 2 1071 462 0)) rateRegs = some (4, 7, 22) := by decide
/-- Q12 -/
theorem test_reduce_overflow : after (exec .reduce (rate 0xFFFFFFFFFFFFFFFF 1 1 0)) (fun t => (errorsOf t, rateRegs t)) =
    some ((4, 0x10, 0x0201), (2 ^ 64 - 1, 1, 1)) := by decide
/-- DB9 -/
theorem test_double : after (exec .double (rate 0 0x7FFFFFFFFFFFFFFF 0x8000000000000000 0)) rateRegs = some (1, 2 ^ 62 - 1, 2 ^ 62) := by decide
/-- DB8: the inner reduce overflows -/
theorem test_double_overflow : after (exec .double (rate 0x7FFFFFFFFFFFFFFF 3 2 0)) errorsOf = some (4, 0x10, 0x0201) := by decide
/-- the gcd corners of 2.3, and the longest loop: 92 iterations -/
theorem test_euclid_corners : (euclidLoop 130 0 7, euclidLoop 130 7 0, euclidLoop 130 0 0, euclidLoop 130 147 462) = (7, 7, 0, 21) := by decide
theorem test_euclid_longest : euclidLoop 92 7540113804746346429 12200160415121876738 = 1 := by decide

/-! CALCMS, PACK, UNPACK, MSADDR, RENC (95_test_vectors 2.4 to 2.6). -/

/-- M2: r = 32 below 5 MHz is no error -/
theorem test_calcms : after (exec .calcms (rate 139682 0 1 0)) (fun t => (solution t, t.lastErr)) =
    some ((567, 153, 69841, 32), 0) := by decide
/-- M28: the shrink leaves c = 2^30 -/
theorem test_calcms_shrink : after (exec .calcms (rate 41698711 66 103 0)) solution = some (60, 836290515, 1073741824, 1) := by decide
/-- K6 -/
theorem test_pack : after (exec .pack (divider 253 488917 1111111)) (fun t => (t.msP1, t.msP2, t.msP3, bytesOf t)) =
    some (31928, 359160, 1111111, [0xB8, 0x7C, 0xE0, 0xEB, 0x15, 0x00, 0x47, 0xF4, 0x10, 0x00]) := by decide
/-- K12: a is tested first -/
theorem test_pack_a_first : after (exec .pack (divider 7 5 0)) errorsOf = some (6, 0x40, 0x0400) := by decide
/-- X2 -/
theorem test_unpack : after (exec .unpack (holding msregBase (List.replicate 10 0xFF) State.reset))
    (fun t => (t.msP1, t.msP2, t.msP3, t.msA, t.msB, t.msC)) =
    some (262143, 1073741823, 1073741823, 2051, 1073741823, 1073741823) := by decide
/-- X5: bits 7:6 of byte 9 are no part of p3 -/
theorem test_unpack_zero_p3 : after (exec .unpack (holding msregBase [0, 0, 0, 0, 0, 0, 0, 0, 0, 0xC0] State.reset)) errorsOf =
    some (6, 0x40, 0x0500) := by decide
/-- A4, A5 -/
theorem test_msaddr : after (exec .msaddr { State.reset with msIdx := 3 }) (fun t => t.msBase) = some 86 := by decide
theorem test_msaddr_index_4 : after (exec .msaddr { State.reset with msIdx := 4 }) errorsOf = some (6, 0x40, 0x0604) := by decide
/-- E6, E8 -/
theorem test_renc : after (exec .renc { State.reset with msR := 32 }) (fun t => t.msRreg) = some 0xD4 := by decide
theorem test_renc_not_a_power : after (exec .renc { State.reset with msR := 3 }) errorsOf = some (6, 0x40, 0x0703) := by decide

/-! Host accesses, CLRERR, illegal opcodes (95_test_vectors 2.7). -/

/-- H1 -/
theorem test_illegal_opcode : after (act (.wr 0 0x16) State.reset) errorsOf = some (6, 0x40, 0x0116) := by decide
/-- H4 -/
theorem test_write_read_only : after (act (.wr 11 5) { State.reset with pData := 7 }) (fun t => (errorsOf t, t.pData)) =
    some ((6, 0x40, 0x080B), 7) := by decide
/-- H6 -/
theorem test_read_no_register : after (act (.rd 27) State.reset) (fun t => (errorsOf t, t.seen)) =
    some ((6, 0x40, 0x081B), [.hostReceived 0]) := by decide
/-- H7 -/
theorem test_store_no_address : after (act (.stb 0x2A 0) State.reset) (fun t => (errorsOf t, t.mem)) = some ((6, 0x40, 0x092A), []) := by decide
/-- H9: a good host write does not touch LAST_ERR -/
theorem test_good_write : after (act (.wr 6 0x45) { State.reset with lastErr := 3 }) (fun t => (t.fAddr, t.lastErr)) = some (0x45, 3) := by decide
/-- H10 -/
theorem test_clrerr : after (exec .clrerr { State.reset with lastErr := 2, errs := 0x0C, errInfo := 0x0042 }) errorsOf = some (0, 0, 0) := by decide
/-- H11 -/
theorem test_no_cause_keeps_errs : after (exec .reduce { rate 0 10 4 0 with lastErr := 2, errs := 0x04, errInfo := 0x0042 }) errorsOf =
    some (0, 0x04, 0x0042) := by decide

/-- R36, R37, R280: after a reset a register a host writes holds that value, and only the registers nothing wrote are drawn anew -/
theorem test_reset_then_write :
    after (turn (.wr 16 2) { State.reset with unset := [.msIdx, .pData] }) (fun t => (t.msIdx, t.unset, t.draws)) =
      some (2, [.pData], 2) := by decide
theorem test_reset_forgets : after (act .reset { State.reset with errs := 0x40, mem := [(0, 1)] })
    (fun t => (t.errs, t.mem, t.unset.length, t.draws)) = some (0, [], 23, 23) := by decide
/-- R7: a block with one class has no BUILD.8x16 -/
theorem test_classes : (commandTable { Config.std with nClass := 1 }).map (fun r => r.1) =
    [0x01, 0x10, 0x20, 0x30, 0x31, 0x32, 0x33, 0x34, 0x35, 0x36] := by decide
/-- R7, R92, R64: the magic and the byte order of a frame are the parameters' -/
theorem test_magic_and_order : ({ Config.std with magic := fun _ => 0x50, fieldEndian := .big } : Config).encode
    (.frame8x16 0x07 0x01 0 0x08 0xBEEF 0) = [0x50, 0x07, 0x01, 0, 0x08, 0xBE, 0xEF, 0, 0, 0, 0, 0, 0, 0, 0, 0] := by decide
/-- R7, R186: the shrink goes on until both are within the limit, whatever it is: with limit 1 the last passes are 5/7, 2/3, 1/1 -/
theorem test_shrink_limit : shrink 1 (shrinkPasses Config.std) (5 * 2 ^ 59) (7 * 2 ^ 59) = (1, 1) := by decide
/-- R7, R228: a block with frames of eight bytes takes in eight -/
theorem test_frame_length : after (blockAct { Config.std with frameLen := 8 } (.deliver 0x0B4500010041) State.reset.toBlock)
    (fun r => r.1.mem.length) = some 8 := by decide

/-! Witnesses: for each statement with hypotheses, a state and operands that meet all of them, each clause at a boundary. -/

theorem witness_EncodeInvertsDecode : decode [0x10, 0x20] = .ok (.build8x8, [0x20]) := rfl
theorem witness_FrameFormatsPlaceFields :
    BitVec.extractLsb' 0 8 (0x41 : Frame) = 0x41 ∧ BitVec.extractLsb' 0 8 (0x42 : Frame) = 0x42 ∧
    BitVec.extractLsb' 0 8 (0x43 : Frame) = 0x43 ∧ BitVec.extractLsb' 0 8 (0x44 : Frame) = 0x44 ∧
    BitVec.extractLsb' 0 8 (0x45 : Frame) = 0x45 ∧ BitVec.extractLsb' 0 8 (0x4B : Frame) = 0x4B := by decide
theorem witness_IllegalCommandByteRaises (v : Nat) (hv : v ∈ [0x00, 0x0F, 0x16, 0x37, 0xFF]) :
    v < 256 ∧ v ∉ [0x01, 0x10, 0x11, 0x12, 0x13, 0x14, 0x15, 0x20, 0x21, 0x22, 0x23, 0x24, 0x25,
      0x30, 0x31, 0x32, 0x33, 0x34, 0x35, 0x36] := by
  simp only [List.mem_cons, List.not_mem_nil, or_false] at hv
  rcases hv with rfl | rfl | rfl | rfl | rfl <;> decide
theorem witness_StepRunsTheDecodedInstruction :
    (∃ s : State, s.pending = .wr 0 0x36 :: [] ∧ 0x36 < 256 ∧ decode [BitVec.ofNat 8 0x36] = .ok (.renc, [])) ∧
    (∃ (s : State) (f : Frame), s.pending = .deliver f :: [] ∧
      decode (frameBytes f) = .ok (.frame8x8 0x00 0x01 0x00 0x45 0x0B 0, [])) ∧
    State.reset.pending = [] ∧ State.reset.unset = [] :=
  ⟨⟨{ State.reset with pending := [.wr 0 0x36] }, rfl, by decide, rfl⟩,
   ⟨{ State.reset with pending := [.deliver 0x0B4500010041] }, _, rfl, rfl⟩, rfl, rfl⟩
theorem witness_HostWriteChangesThatRegisterOnly :
    (regOf 4 = some .fTid ∧ 255 < 2 ^ regWidth Config.std .fTid) ∧ (regOf 7 = some .fData ∧ 2 ^ 64 - 1 < 2 ^ regWidth Config.std .fData) ∧
    (regOf 13 = some .rInt ∧ 0 < 2 ^ regWidth Config.std .rInt) ∧ (regOf 17 = some .msDbl ∧ 1 < 2 ^ regWidth Config.std .msDbl) ∧
    (regOf 21 = some .msR ∧ 255 < 2 ^ regWidth Config.std .msR) := by decide
theorem witness_BadRegisterAccessRaises :
    26 < 27 ∧ 26 ∈ [1, 2, 3, 8, 9, 10, 11, 12, 22, 23, 24, 25, 26] ∧ (∃ r, regOf 0 = some r ∧ 2 ^ regWidth Config.std r ≤ 256) ∧
    (∃ r, regOf 17 = some r ∧ 2 ^ regWidth Config.std r ≤ 2) := ⟨by decide, by decide, ⟨.cmd, by decide⟩, ⟨.msDbl, by decide⟩⟩
theorem witness_HostReadHandsOutTheRegister : regOf 0 = some .cmd ∧ regOf 26 = some .msRreg := by decide
theorem witness_HostBufferAccess :
    0x29 < 0x2A ∧ 255 < 256 ∧ Memory.read (holding 0x29 [0x3F] State.reset).mem 0x29 = some 0x3F ∧
    Memory.read State.reset.mem 0x29 = none := by decide
theorem witness_BadBufferAccessRaises :
    0x29 < 0x2A ∧ 0xFF < 0x100 ∧ (∃ t, exec .build8x8 State.reset = .next t) ∧
    exec .unpack State.reset = .fault (.unwrittenByte 0x20) := ⟨by decide, by decide, ⟨_, rfl⟩, rfl⟩
theorem witness_ResetAction :
    Reg.cmd ∉ ({ State.reset with unset := dataRegs } : State).unset ∧ dataRegs.Nodup ∧ (∀ q, q ∈ dataRegs → q ∈ dataRegs) ∧
    dataRegs[0]? = some .fTid ∧ dataRegs[22]? = some .msRreg := by decide
theorem witness_TakeReadsTxf :
    (∀ i, i < 16 → Memory.read (holding 0 (frameBytes 0x0B4500010041) State.reset).mem i =
      some (BitVec.extractLsb' (8 * i) 8 (0x0B4500010041 : Frame))) ∧
    (∀ i, i < 15 → (Memory.read (holding 0 (List.replicate 15 0) State.reset).mem i).isSome = true) ∧
    Memory.read (holding 0 (List.replicate 15 0) State.reset).mem 15 = none := by decide
theorem witness_RaiseIsPreciseAndClean :
    ∃ t, exec .build8x8 (operands 0 1 0x100 0) = .next t ∧ t.lastErr ≠ 0 ∧ t.lastErr ≠ 3 := ⟨_, rfl, by decide, by decide⟩
theorem witness_CommandCausesAreTheTables : ∃ t, exec .calcms (rate 0 0 1 0) = .next t ∧ t.lastErr ≠ 0 := ⟨_, rfl, by decide⟩
theorem witness_StickyBitsStayUntilClrerrOrReset :
    ∃ t, act (.wr 0 0x30) { rate 0 10 4 0 with errs := 0x04 } = .next t ∧ (0x04#8).getLsbD 2 = true := ⟨_, rfl, by decide⟩
theorem witness_reset_inv : Inv State.reset := ⟨by decide, by decide, by decide, by decide, by decide⟩
theorem witness_EveryStepKeepsTheInvariant :
    ∃ t, step { State.reset with pending := [.wr 0 0x16] } = .next t ∧ Inv { State.reset with pending := [.wr 0 0x16] } :=
  ⟨_, rfl, ⟨by decide, by decide, by decide, by decide, by decide⟩⟩
theorem witness_CommandWithoutCause : ∃ t, exec .msaddr { State.reset with msIdx := 3 } = .next t ∧ t.lastErr = 0 := ⟨_, rfl, by decide⟩
theorem witness_ErrorRegistersNeverChange :
    (∃ t, exec .pack (divider 8 0 1) = .next t) ∧ exec .unpack State.reset = .fault (.unwrittenByte 0x20) := ⟨⟨_, rfl⟩, rfl⟩
theorem witness_OnlyTheNamedInstructions : ∃ t, exec .reduce (rate 0 10 4 0) = .next t := ⟨_, rfl⟩
theorem witness_StoringCommands :
    (∃ t, exec (buildInstr .c32x32) (operands 0 0 0xFFFFFFFF 0x100000000) = .next t ∧ t.lastErr ≠ 0) ∧
    (∃ t, exec (buildInstr .c8x8) (operands 0 0 0xFF 0xFF) = .next t ∧ t.lastErr = 0) ∧
    (∃ t, exec .pack (divider 567 0 1) = .next t ∧ t.lastErr = 0) ∧
    (∃ t, exec .pack (divider 568 0 1) = .next t ∧ t.lastErr ≠ 0) :=
  ⟨⟨_, rfl, by decide⟩, ⟨_, rfl, by decide⟩, ⟨_, rfl, by decide⟩, ⟨_, rfl, by decide⟩⟩
theorem witness_DifferentOperands :
    ∃ t, exec (buildInstr .c8x64) (operands 0x12 3 0xFE 5) = .next t ∧ t.lastErr = 0 := ⟨_, rfl, by decide⟩
theorem witness_Parse8x8 : ∀ i, i < 6 → i ≠ 3 → Memory.read (received 0x01 [0x41, 0x01, 0x02, 0x00, 0x35, 0xA7, 0x00, 0x00, 0x00, 0x00, 0x00, 0x00, 0x00, 0x00, 0x00, 0x00]).mem (0x10 + i) =
    some (List.getD [0x41, 0x01, 0x02, 0x00, 0x35, 0xA7, 0x00, 0x00, 0x00, 0x00, 0x00, 0x00, 0x00, 0x00, 0x00, 0x00] i 0) := by decide
theorem witness_Parse8x16 : ∀ i, i < 7 → i ≠ 3 → Memory.read (received 0x00 [0x42, 0x00, 0x02, 0x00, 0x08, 0xEF, 0xBE, 0xFF, 0xFF, 0xFF, 0xFF, 0xFF, 0xFF, 0xFF, 0xFF, 0xFF]).mem (0x10 + i) =
    some (List.getD [0x42, 0x00, 0x02, 0x00, 0x08, 0xEF, 0xBE, 0xFF, 0xFF, 0xFF, 0xFF, 0xFF, 0xFF, 0xFF, 0xFF, 0xFF] i 0) := by decide
theorem witness_Parse8x32 : ∀ i, i < 9 → i ≠ 3 → Memory.read (received 0x01 [0x43, 0x01, 0x03, 0x00, 0x00, 0x57, 0x00, 0x01, 0x00, 0x00, 0x00, 0x00, 0x00, 0x00, 0x00, 0x00]).mem (0x10 + i) =
    some (List.getD [0x43, 0x01, 0x03, 0x00, 0x00, 0x57, 0x00, 0x01, 0x00, 0x00, 0x00, 0x00, 0x00, 0x00, 0x00, 0x00] i 0) := by decide
theorem witness_Parse8x64 : ∀ i, i < 13 → i ≠ 3 → Memory.read (received 0x12 [0x44, 0x12, 0x03, 0x00, 0xFE, 0xEF, 0xCD, 0xAB, 0x89, 0x67, 0x45, 0x23, 0x01, 0xAA, 0xBB, 0xCC]).mem (0x10 + i) =
    some (List.getD [0x44, 0x12, 0x03, 0x00, 0xFE, 0xEF, 0xCD, 0xAB, 0x89, 0x67, 0x45, 0x23, 0x01, 0xAA, 0xBB, 0xCC] i 0) := by decide
theorem witness_Parse16x64 : ∀ i, i < 14 → i ≠ 3 → Memory.read (received 0x07 [0x45, 0x07, 0x02, 0x00, 0xB2, 0xA1, 0x88, 0x99, 0xAA, 0xBB, 0xCC, 0xDD, 0xEE, 0xFF, 0x00, 0x00]).mem (0x10 + i) =
    some (List.getD [0x45, 0x07, 0x02, 0x00, 0xB2, 0xA1, 0x88, 0x99, 0xAA, 0xBB, 0xCC, 0xDD, 0xEE, 0xFF, 0x00, 0x00] i 0) := by decide
theorem witness_Parse32x32 : ∀ i, i < 12 → i ≠ 3 → Memory.read (received 0x00 [0x4B, 0x00, 0x02, 0x00, 0xEF, 0xBE, 0xAD, 0xDE, 0x78, 0x56, 0x34, 0x12, 0x00, 0x00, 0x00, 0x00]).mem (0x10 + i) =
    some (List.getD [0x4B, 0x00, 0x02, 0x00, 0xEF, 0xBE, 0xAD, 0xDE, 0x78, 0x56, 0x34, 0x12, 0x00, 0x00, 0x00, 0x00] i 0) := by decide
theorem witness_ParseReadsOnlyTheClassBytes :
    (∃ t, exec (parseInstr .c8x8) (received 0x01 [0x41, 0x01, 0x02, 0x00, 0x35, 0xA7]) = .next t) ∧
    (∀ i, i < 4 + FrameClass.c8x8.na + FrameClass.c8x8.nd → i ≠ 3 →
      Memory.read (received 0x01 [0x41, 0x01, 0x02, 0xEE, 0x35, 0xA7, 0xFF]).mem (0x10 + i) =
        Memory.read (received 0x01 [0x41, 0x01, 0x02, 0x00, 0x35, 0xA7]).mem (0x10 + i)) ∧
    exec (parseInstr .c8x8) State.reset = .fault (.unwrittenByte 0x10) := ⟨⟨_, rfl⟩, by decide, rfl⟩
theorem witness_WithoutTargetCheck :
    ∃ t, parseFrame { Config.std with checkTarget := false } .c8x8 (received 0x01 [0x41, 0x00, 0x02, 0x00, 0x35, 0x99]).toBlock =
      .next t := ⟨_, rfl⟩
theorem witness_FrameRoundTrip :
    (operands 0x07 0x03 0xFFFF 0xFFFFFFFFFFFFFFFF).fAddr.toNat < 2 ^ FrameClass.c16x64.aw ∧
    (operands 0x07 0x03 0xFFFF 0xFFFFFFFFFFFFFFFF).fData.toNat < 2 ^ FrameClass.c16x64.dw ∧
    Reg.fTid ∉ (operands 0x07 0x03 0xFFFF 0xFFFFFFFFFFFFFFFF).unset := by decide
theorem witness_FacadeRead :
    255 < 256 ∧ 255 < 2 ^ FrameClass.c8x8.aw ∧ BitVec.extractLsb' 0 8 (0xA73500020141 : Frame) = magicOf .c8x8 ∧
    BitVec.extractLsb' 8 8 (0xA73500020141 : Frame) = BitVec.ofNat 8 1 ∧ BitVec.getLsbD (0xA73500020141 : Frame) 17 = true := by decide
theorem witness_MemReadAfterMemWrite : 2 ^ 64 - 1 < 2 ^ (8 * 8) := by decide
theorem witness_ReducedRate :
    (∃ t, exec .reduce (rate 3 0 7 0) = .next t ∧ t.lastErr = 0 ∧ t.rNum = 0) ∧
    (∃ t, exec .double (rate 1 1 2 0) = .next t ∧ t.lastErr = 0) := ⟨⟨_, rfl, by decide, by decide⟩, ⟨_, rfl, by decide⟩⟩
theorem witness_Euclid : 12200160415121876738 < 2 ^ 64 := by decide
theorem witness_CalcmsAccepts :
    (rate 139437 0 1 0).msDbl = 0 ∧ (rate 139437 0 1 0).rNum = 0 ∧ (rate 139437 0 1 0).rDen = 1 ∧
    139437 ≤ (rate 139437 0 1 0).rInt.toNat ∧ (rate 139437 0 1 0).rInt.toNat ≤ 316800000 ∧
    (rate 0 0 1 0).rInt.toNat = 0 ∧ 316800000 < (rate 316800001 0 1 0).rInt.toNat ∧
    (rate 139436 0 1 0).rInt.toNat < 139437 := by decide
/-- The first two clauses: a zero denominator; a DOUBLE that raises. -/
theorem witness_CalcmsResult_early :
    (rate 1 0 0 0).rDen = 0 ∧ (rate 0x8000000000000000 0 1 1).msDbl = 1 ∧
    ∃ u, exec .double (rate 0x8000000000000000 0 1 1) = .next u ∧ u.lastErr ≠ 0 := ⟨rfl, rfl, _, rfl, by decide⟩
/-- A doubling of the r search that raises, in step 3 and in step 1, with no doubling before it. -/
theorem witness_CalcmsResult_search_raises :
    (∃ u, exec .double (rate 1 0x8000000000000000 1 0) = .next u ∧ u.errInfo = 0x0203) ∧
    (∃ u, exec .double (rate 4999999 0x7FFFFFFFFFFFFFFF 1 0) = .next u ∧ u.errInfo = 0x0201) := ⟨⟨_, rfl, by decide⟩, ⟨_, rfl, by decide⟩⟩
/-- The search from 3 MHz (MS_DBL = 0) doubles once, and the example of R186 starts from a DOUBLE. -/
theorem witness_CalcmsResult_search :
    (∃ x : Nat → State, x 0 = rate 3000000 0 1 0 ∧ (x 0).rInt.toNat < 5000000 ∧ exec .double (x 0) = .next (x 1) ∧
      (x 1).lastErr = 0 ∧ 5000000 ≤ (x 1).rInt.toNat) ∧
    (∃ u, exec .double (rate 1000000 0 1 1) = .next u ∧ u.lastErr = 0) :=
  ⟨⟨fun n => if n = 0 then rate 3000000 0 1 0 else rate 6000000 0 1 0, rfl, by decide, rfl, rfl, by decide⟩, ⟨_, rfl, rfl⟩⟩
/-- The clauses of the solving step. -/
theorem witness_CalcmsResult_solving :
    (2 ^ 64 ≤ 2534400000 * 7278544853) ∧ (2534400000 * 2 ^ 31 < 2 ^ 64 ∧ 2 ^ 64 ≤ 2 ^ 40 * 2 ^ 31) ∧
    (2 ^ 32 * 2 ^ 31 < 2 ^ 64 ∧ 2 ^ 64 ≤ 2 ^ 32 * 2 ^ 31 + 2 ^ 63) ∧ (2534400000 * 1 < 2 ^ 64 ∧ 0 * 1 + 0 = 0) ∧
    (2534400000 * 1 / (316800001 * 1 + 0) < 8) ∧ (567 < 2534400000 * 1 / (139436 * 32 * 1 + 0)) ∧
    (8 ≤ 2534400000 * 1 / (5000000 * 1 + 0) ∧ 2534400000 * 1 / (5000000 * 1 + 0) ≤ 567) := by decide
/-- M28's shrink: one pass, and none would not do. -/
theorem witness_CalcmsResult_shrink :
    (41698711 * 103 + 66) / Nat.gcd (2534400000 * 103 % (41698711 * 103 + 66)) (41698711 * 103 + 66) = 4294967299 ∧
    4294967299 >>> 2 ≤ 2 ^ 30 ∧ 2 ^ 30 < 4294967299 >>> 1 ∧ 2 ^ 30 < 4294967299 >>> 0 := by decide
theorem witness_CalcmsInRange :
    (∃ t, exec .calcms (rate 1000000 0 1 1) = .next t ∧ t.lastErr = 0) ∧ (rate 5000000 0 1 0).msDbl = 0 :=
  ⟨⟨_, rfl, by decide⟩, rfl⟩
/-- 2534400000 / 10000000 = 253.44 = 6336/25: the denominator is 25. -/
theorem witness_CalcmsExact :
    ∃ (t : State) (q : ℚ), exec .calcms (rate 10000000 0 1 0) = .next t ∧ t.lastErr = 0 ∧
      q = 2534400000 / ((((rate 10000000 0 1 0).rInt.toNat : ℚ) + (rate 10000000 0 1 0).rNum.toNat / (rate 10000000 0 1 0).rDen.toNat) *
        (t.msR.toNat * (if (rate 10000000 0 1 0).msDbl = 1 then 2 else 1))) ∧ q.den ≤ 2 ^ 30 := by
  refine ⟨_, 6336 / 25, rfl, by decide, ?_, by norm_num⟩
  show (6336 / 25 : ℚ) = 2534400000 / (((10000000 : ℕ) + (0 : ℕ) / (1 : ℕ)) * ((1 : ℕ) * (if (0#1 : BitVec 1) = 1 then 2 else 1)))
  rw [if_neg (by decide)]
  norm_num
theorem witness_PackResult :
    128 * 4 / 5 = 102 ∧ BitVec.ofNat 32 (128 * 316 + 102 - 512) = 40038#32 ∧ BitVec.ofNat 32 (128 * 4 - 102 * 5) = 2#32 := by decide
theorem witness_PackedFields : ∃ t, exec .pack (divider 567 1073741822 1073741823) = .next t ∧ t.lastErr = 0 := ⟨_, rfl, by decide⟩
theorem witness_UnpackResult : ∀ i, i < 10 → Memory.read (holding msregBase (List.replicate 10 0xFF) State.reset).mem (0x20 + i) =
    some 0xFF := by decide
theorem witness_PackUnpackRoundTrip :
    8 ≤ (divider 567 0 1).msA.toNat ∧ (divider 567 0 1).msA.toNat ≤ 567 ∧ 1 ≤ (divider 567 0 1).msC.toNat ∧
    (divider 567 0 1).msC.toNat < 2 ^ 30 ∧ (divider 567 0 1).msB.toNat < (divider 567 0 1).msC.toNat := by decide

end Sys2Proof.Machine.Tests
end

section
/-! PROOF. The invariant of the block's state (10_state R23, R24; 20_memory R61; 60_exceptions R241, R250): it holds at reset and
every step keeps it. The clauses about the error registers are kept by the three ways an action ends with them (`recordCause`,
`endNormally`, `clearErrors`); buffer space and the record of unset registers have their own rules (`exec_mem`, `exec_unset`). -/

namespace Sys2Proof.Machine

/-- What `Inv` says about the error registers. -/
structure ErrorsSound (b : Block) : Prop where
  legalCause : b.lastErr = 0 ∨ b.lastErr = 2 ∨ b.lastErr = 3 ∨ b.lastErr = 4 ∨ b.lastErr = 6
  hardwired : b.errs &&& 0xA3#8 = 0
  sticky : b.lastErr ≠ 0 → b.errs.getLsbD b.lastErr.toNat = true

theorem inv_iff {s : State} :
    Inv s ↔ Memory.wf s.mem = true ∧ ErrorsSound s.toBlock ∧ s.unset.Sublist dataRegs :=
  ⟨fun h => ⟨h.memory, ⟨h.legalCause, h.hardwired, h.sticky⟩, h.unsetData⟩,
   fun ⟨hm, he, hu⟩ => ⟨hm, he.legalCause, he.hardwired, he.sticky, hu⟩⟩

/-- The error clauses read `LAST_ERR` and `ERRS` alone. -/
theorem ErrorsSound.congr {b b' : Block} (h : ErrorsSound b) (hl : b'.lastErr = b.lastErr) (he : b'.errs = b.errs) :
    ErrorsSound b' :=
  ⟨hl ▸ h.legalCause, he ▸ h.hardwired, hl ▸ he ▸ h.sticky⟩

/-- A command that ends with no cause leaves the error registers sound. -/
theorem errorsSound_endNormally {b : Block} (h : b.errs &&& 0xA3#8 = 0) : ErrorsSound (endNormally b) :=
  ⟨.inl rfl, h, fun hne => absurd rfl hne⟩

theorem errorsSound_clearErrors (b : Block) : ErrorsSound (clearErrors b) :=
  ⟨.inl rfl, BitVec.zero_and, fun hne => absurd rfl hne⟩

/-- The causes the block raises or records: not those of the transport and the tuning engine (60_exceptions R241). -/
def blockCauses : List Cause := [.protocolError, .operationFailed, .rangeError, .invalidState]

/-- No command's row of the table names a cause of the transport or the tuning engine (60_exceptions R242). -/
theorem mem_blockCauses_of_allowed {i : Instr} {c : Cause} {sub : Byte} (h : (c, sub) ∈ allowedCauses i) : c ∈ blockCauses := by
  have hrow : ∀ p ∈ allowedCauses i, p.1 ∈ blockCauses := by
    cases i <;> simp [allowedCauses, blockCauses]
  exact hrow _ h

theorem getLsbD_stickyBit_causeCode (c : Cause) : (stickyBit c).getLsbD (causeCode c).toNat = true := by
  cases c <;> decide

/-- A recording sets the sticky bit of its cause and no hard-wired bit. -/
theorem errorsSound_recordCause {b : Block} {c : Cause} (sub val : Byte) (hc : c ∈ blockCauses) (h : b.errs &&& 0xA3#8 = 0) :
    ErrorsSound (recordCause c sub val b) where
  legalCause := by
    rw [recordCause_lastErr]
    revert c
    decide
  hardwired := by
    have hbit : stickyBit c &&& 0xA3#8 = 0 := by
      revert c
      decide
    simp [BitVec.and_or_distrib_right, h, hbit]
  sticky _ := by
    rw [recordCause_lastErr, recordCause_errs, BitVec.getLsbD_or, getLsbD_stickyBit_causeCode, Bool.or_true]

/-- However a command ends, the error registers are sound after it. -/
theorem Ends.errorsSound {i : Instr} {b b' : Block} (h : Ends i b b') (hb : b.errs &&& 0xA3#8 = 0) : ErrorsSound b' := by
  cases h with
  | cleared => exact errorsSound_clearErrors b
  | normally u hu _ => exact errorsSound_endNormally (hu ▸ hb)
  | recorded u c sub val hu hc _ => exact errorsSound_recordCause sub val (mem_blockCauses_of_allowed hc) (hu ▸ hb)

theorem exec_command_keeps_inv {i : Instr} {s t : State} (hs : Inv s) (hi : i.isCommand = true) (h : exec i s = .next t) :
    Inv t := by
  have hmem : Memory.wf t.mem = true := by
    rcases exec_mem h with hm | ⟨x, bs, hx, hm⟩
    · exact hm ▸ hs.memory
    · exact hm ▸ Memory.wf_writeBytes x bs hs.memory hx
  have hunset : t.unset.Sublist dataRegs := (exec_unset h).trans hs.unsetData
  obtain ⟨b, rfl, hends⟩ := exec_command_next hi h
  exact inv_iff.mpr ⟨hmem, hends.errorsSound hs.hardwired, hunset⟩

/-- The invariant speaks of the block alone. -/
theorem Inv.of_toBlock_eq {s t : State} (h : Inv s) (hb : t.toBlock = s.toBlock) : Inv t :=
  inv_iff.mpr (hb ▸ inv_iff.mp h)

theorem act_keeps_inv {a : Action} {s t : State} (hs : Inv s) (h : act a s = .next t) : Inv t := by
  obtain ⟨hmem, herr, hunset⟩ := inv_iff.mp hs
  rcases act_next h with ⟨i, v, hd, _, _, hx⟩ | ⟨u, sub, val, hu, rfl⟩ | ⟨r, v, _, rfl⟩ | ⟨o, rfl⟩ | ⟨x, bs, hx, rfl⟩ | ⟨_, rfl⟩
  · exact exec_command_keeps_inv hs (isCommand_of_decodeCommand hd) hx
  · have hui : Inv u := by
      rcases hu with rfl | ⟨o, rfl⟩
      · exact hs
      · exact hs.of_toBlock_eq rfl
    exact inv_iff.mpr ⟨hui.memory, errorsSound_recordCause sub val (by decide) hui.hardwired, hui.unsetData⟩
  · exact inv_iff.mpr ⟨by simpa using hmem, herr.congr (by simp) (by simp), (settle_sublist [r] s.unset).trans hunset⟩
  · exact hs.of_toBlock_eq rfl
  · exact inv_iff.mpr ⟨Memory.wf_writeBytes x bs hmem hx, herr.congr rfl rfl, hunset⟩
  · exact inv_iff.mpr ⟨by simp [Memory.wf_empty], (errorsSound_clearErrors s.toBlock).congr (by simp) (by simp), by simp⟩

/-- Drawing the unspecified registers anew keeps the invariant. -/
theorem inv_refreshed {s : State} (h : Inv s) : Inv (refreshed s) := by
  obtain ⟨hmem, herr, hunset⟩ := inv_iff.mp h
  unfold refreshed
  exact inv_iff.mpr ⟨by simpa using hmem, herr.congr (by simp) (by simp), by simpa using hunset⟩

/-- Settles O21: a step idles, or it is an action in the refreshed state. -/
theorem everyStepKeepsTheInvariant : Obligations.EveryStepKeepsTheInvariant := by
  intro s t hs h
  cases hp : s.pending with
  | nil =>
    rw [step_of_idle hp] at h
    cases h
    exact hs
  | cons a rest =>
    rw [step_of_pending hp] at h
    have hrest : Inv { s with pending := rest } := hs.of_toBlock_eq rfl
    exact act_keeps_inv (inv_refreshed hrest) h

/-- Settles O22: buffer space is empty and the error registers are 0. -/
theorem resetMeetsTheInvariant : Obligations.ResetMeetsTheInvariant :=
  ⟨⟨Memory.wf_empty, .inl rfl, rfl, fun hne => absurd rfl hne, List.nil_sublist _⟩, rfl, rfl, rfl⟩

end Sys2Proof.Machine
end

section
/-! PROOF. The error registers and the actions (10_state R23 to R25; 60_exceptions R256): only CLRERR and reset clear a bit of `ERRS`,
and a command that ends with no cause leaves `ERRS` and `ERRINFO`. Both read `exec_command_next`: the ways a command ends. -/

namespace Sys2Proof.Machine

/-- What the command port's decoder answers is the row of the opcode map with that byte (30_encoding R100). -/
theorem mem_commandTable_of_decodeCommand {b : Byte} {i : Instr} (h : decodeCommand b = .ok i) :
    (b, i) ∈ commandTable Config.std := by
  unfold decodeCommand Config.decodeCommand at h
  split at h
  · rename_i row hf
    cases h
    have hb : row.1 = b := by simpa using List.find?_some hf
    exact hb ▸ List.mem_of_find?_eq_some hf
  · cases h

theorem eq_opcode_of_decodeCommand_clrerr {b : Byte} (h : decodeCommand b = .ok .clrerr) : b = 0x01 :=
  (by decide : ∀ row ∈ commandTable Config.std, row.2 = .clrerr → row.1 = 0x01) _ (mem_commandTable_of_decodeCommand h) rfl

/-- A host access, other than a write of CLRERR's opcode, runs no CLRERR. -/
theorem ne_clrerr_of_decodeCommand {v : Nat} {i : Instr} (hd : decodeCommand (BitVec.ofNat 8 v) = .ok i) (hv : v < 256)
    (h1 : v ≠ 1) : i ≠ .clrerr := by
  rintro rfl
  have hb := congrArg BitVec.toNat (eq_opcode_of_decodeCommand_clrerr hd)
  have hv1 : v % 256 = 1 := by simpa using hb
  omega

/-- A recording only sets a bit. -/
theorem recordCause_keeps_bit {b : Block} (c : Cause) (sub val : Byte) {j : Nat} (h : b.errs.getLsbD j = true) :
    (recordCause c sub val b).errs.getLsbD j = true := by
  simp [h]

/-- However a command other than CLRERR ends, a bit of `ERRS` that was set is still set. -/
theorem Ends.keeps_bit {i : Instr} {b b' : Block} (h : Ends i b b') (hi : i ≠ .clrerr) {j : Nat}
    (hj : b.errs.getLsbD j = true) : b'.errs.getLsbD j = true := by
  cases h with
  | cleared hc => exact absurd hc hi
  | normally u hu _ => simpa [hu] using hj
  | recorded u c sub val hu _ _ => exact recordCause_keeps_bit c sub val (hu ▸ hj)

/-- Settles O20, along what an action can do (`act_next`). -/
theorem stickyBitsStayUntilClrerrOrReset : Obligations.StickyBitsStayUntilClrerrOrReset := by
  intro a s t hclr hreset h j hj
  rcases act_next h with ⟨i, v, hd, hv, rfl, hx⟩ | ⟨u, sub, val, hu, rfl⟩ | ⟨r, v, _, rfl⟩ | ⟨o, rfl⟩ | ⟨x, bs, _, rfl⟩ | ⟨ha, _⟩
  · have hi : i ≠ .clrerr := ne_clrerr_of_decodeCommand hd hv (fun hv1 => hclr (hv1 ▸ rfl))
    obtain ⟨b, rfl, hends⟩ := exec_command_next (isCommand_of_decodeCommand hd) hx
    exact hends.keeps_bit hi hj
  · have hub : u.errs = s.errs := by rcases hu with rfl | ⟨o, rfl⟩ <;> rfl
    exact recordCause_keeps_bit _ sub val (hub ▸ hj)
  · simpa using hj
  · exact hj
  · exact hj
  · exact absurd ha hreset

theorem causeCode_ne_zero (c : Cause) : causeCode c ≠ 0 := by
  cases c <;> decide

/-- Settles O24: of the ways a command ends, CLRERR's is excluded and a recording leaves a cause in `LAST_ERR`. -/
theorem commandWithoutCauseLeavesErrsAndErrinfo : Obligations.CommandWithoutCauseLeavesErrsAndErrinfo := by
  intro i s t hc hi h hl
  obtain ⟨b, rfl, hends⟩ := exec_command_next hc h
  cases hends with
  | cleared hclr => exact absurd hclr hi
  | normally u he hx => exact ⟨he, hx⟩
  | recorded u c sub val _ _ _ => exact absurd hl (causeCode_ne_zero c)

end Sys2Proof.Machine
end

section
/-! PROOF. The column "written by" of the register table (10_state R21): one frame equation a command, which names what the command
may change and so says that it leaves the rest; each is read off what the command can answer (Laws/Meanings.lean). -/

namespace Sys2Proof.Machine

/-- BUILD.k writes `TXF` and the error registers (40_frame_build R130). -/
theorem buildFrame_frame {k : FrameClass} {s t : Block} (h : buildFrame Config.std k s = .next t) :
    t = { s with mem := t.mem, lastErr := t.lastErr, errs := t.errs, errInfo := t.errInfo } := by
  rcases buildFrame_next h with ⟨bs, _, _, rfl⟩ | ⟨val, rfl⟩ <;> rfl

/-- PARSE.k writes `P_*` and the error registers (41_frame_parse R150). -/
theorem parseFrame_frame {k : FrameClass} {s t : Block} (h : parseFrame Config.std k s = .next t) :
    t = { s with pTid := t.pTid, pFlags := t.pFlags, pAddr := t.pAddr, pData := t.pData, pSuccess := t.pSuccess,
                 unset := t.unset, lastErr := t.lastErr, errs := t.errs, errInfo := t.errInfo } := by
  rcases parseFrame_next h with ⟨p, _, rfl⟩ | ⟨sub, val, _, rfl⟩
  · unfold endParse
    split_ifs <;> rfl
  · rfl

/-- REDUCE writes the rate registers and the error registers (10_state R21). -/
theorem reduceCommand_frame {s t : Block} (h : reduceCommand Config.std s = .next t) :
    t = { s with rInt := t.rInt, rNum := t.rNum, rDen := t.rDen, unset := t.unset,
                 lastErr := t.lastErr, errs := t.errs, errInfo := t.errInfo } := by
  rcases reduceCommand_next h with ⟨x, _, rfl⟩ | rfl | ⟨val, rfl⟩ <;> rfl

/-- DOUBLE writes what REDUCE writes. -/
theorem doubleCommand_frame {s t : Block} (h : doubleCommand Config.std s = .next t) :
    t = { s with rInt := t.rInt, rNum := t.rNum, rDen := t.rDen, unset := t.unset,
                 lastErr := t.lastErr, errs := t.errs, errInfo := t.errInfo } := by
  rcases doubleCommand_next h with ⟨x, _, rfl⟩ | rfl | ⟨val, rfl⟩ <;> rfl

/-- CALCMS writes `MS_A`, `MS_B`, `MS_C`, `MS_R` and the error registers. -/
theorem calcmsCommand_frame {s t : Block} (h : calcmsCommand Config.std s = .next t) :
    t = { s with msA := t.msA, msB := t.msB, msC := t.msC, msR := t.msR, unset := t.unset,
                 lastErr := t.lastErr, errs := t.errs, errInfo := t.errInfo } := by
  rcases calcmsCommand_next h with ⟨x, _, rfl⟩ | rfl | ⟨sub, val, _, rfl⟩ <;> rfl

/-- PACK writes `MS_P1` to `MS_P3`, `MSREG` and the error registers. -/
theorem packCommand_frame {s t : Block} (h : packCommand Config.std s = .next t) :
    t = { s with msP1 := t.msP1, msP2 := t.msP2, msP3 := t.msP3, mem := t.mem, unset := t.unset,
                 lastErr := t.lastErr, errs := t.errs, errInfo := t.errInfo } := by
  rcases packCommand_next h with ⟨f, _, rfl⟩ | ⟨val, rfl⟩ <;> rfl

/-- UNPACK writes `MS_P1` to `MS_P3`, `MS_A` to `MS_C` and the error registers: not `MS_R` (43_multisynth R197). -/
theorem unpackCommand_frame {s t : Block} (h : unpackCommand Config.std s = .next t) :
    t = { s with msP1 := t.msP1, msP2 := t.msP2, msP3 := t.msP3, msA := t.msA, msB := t.msB, msC := t.msC, unset := t.unset,
                 lastErr := t.lastErr, errs := t.errs, errInfo := t.errInfo } := by
  rcases unpackCommand_next h with ⟨f, abc, _, _, rfl⟩ | rfl <;> rfl

/-- MSADDR writes `MS_BASE` and the error registers. -/
theorem msaddrCommand_frame {s t : Block} (h : msaddrCommand Config.std s = .next t) :
    t = { s with msBase := t.msBase, unset := t.unset, lastErr := t.lastErr, errs := t.errs, errInfo := t.errInfo } := by
  rcases msaddrCommand_next h with ⟨b, _, rfl⟩ | rfl <;> rfl

/-- RENC writes `MS_RREG` and the error registers. -/
theorem rencCommand_frame {s t : Block} (h : rencCommand Config.std s = .next t) :
    t = { s with msRreg := t.msRreg, unset := t.unset, lastErr := t.lastErr, errs := t.errs, errInfo := t.errInfo } := by
  rcases rencCommand_next h with ⟨b, _, rfl⟩ | rfl <;> rfl

/-- A frame row writes `RXF` alone (44_system R228). -/
theorem deliverRow_frame {i : Instr} {s t : Block} (h : deliverRow Config.std i s = .next t) : t = { s with mem := t.mem } := by
  cases h
  rfl

/-- Settles O26: each instruction's frame equation answers every clause that does not name the instruction. -/
theorem onlyTheNamedInstructionsWriteARegister : Obligations.OnlyTheNamedInstructionsWriteARegister := by
  intro i s t h
  have hunset : ∀ r ∈ t.unset, r ∈ s.unset := fun _ hr => (exec_unset h).subset hr
  rw [exec_eq_execIn] at h
  obtain ⟨b, hb, rfl⟩ := onBlock_next h
  cases i with
  | clrerr =>
    cases hb
    simp [Instr.isCommand]
  | build8x8 | build8x16 | build8x32 | build8x64 | build16x64 | build32x32 =>
    rw [buildFrame_frame hb]
    simp [Instr.isCommand]
  | parse8x8 | parse8x16 | parse8x32 | parse8x64 | parse16x64 | parse32x32 =>
    rw [parseFrame_frame hb]
    simpa [Instr.isCommand] using hunset
  | reduce =>
    rw [reduceCommand_frame hb]
    simpa [Instr.isCommand] using hunset
  | double =>
    rw [doubleCommand_frame hb]
    simpa [Instr.isCommand] using hunset
  | calcms =>
    rw [calcmsCommand_frame hb]
    simpa [Instr.isCommand] using hunset
  | pack =>
    rw [packCommand_frame hb]
    simpa [Instr.isCommand] using hunset
  | unpack =>
    rw [unpackCommand_frame hb]
    simpa [Instr.isCommand] using hunset
  | msaddr =>
    rw [msaddrCommand_frame hb]
    simpa [Instr.isCommand] using hunset
  | renc =>
    rw [rencCommand_frame hb]
    simpa [Instr.isCommand] using hunset
  | frame8x8 | frame8x16 | frame8x32 | frame8x64 | frame16x64 | frame32x32 =>
    rw [deliverRow_frame hb]
    simp [Instr.isCommand]

end Sys2Proof.Machine
end

section
/-! PROOF. What a step runs (10_state R22, R37; 20_memory R70, R75; 44_system R228), and the register map (10_state R21). The joint
decoder `decode` and the decoders of the two ports agree on what each port is presented with. -/

namespace Sys2Proof.Machine

/-- A byte that alone decodes is a command byte: a frame has sixteen (30_encoding R90, R103). -/
theorem decodeCommand_of_decode_byte {b : Byte} {i : Instr} (h : decode [b] = .ok (i, [])) : decodeCommand b = .ok i := by
  rw [decode_cons] at h
  split at h
  · rename_i j hj
    cases h
    exact hj
  · split at h
    · cases h
    · simp at h

/-- The first byte of a frame is its magic, `V[7:0]` (30_encoding R93). -/
theorem frameBytes_eq_cons (f : Frame) : frameBytes f = f.extractLsb' 0 8 :: leBytes 15 (f.toNat / 256) := rfl

/-- Sixteen bytes that decode as a whole are the frame row that the transport port decodes: a command byte leaves fifteen
(30_encoding R105, R106). -/
theorem decodeFrame_of_decode_frameBytes {f : Frame} {i : Instr} (h : decode (frameBytes f) = .ok (i, [])) :
    decodeFrame f = .ok i := by
  have htail : (leBytes 15 (f.toNat / 256)).take 15 = leBytes 15 (f.toNat / 256) := List.take_of_length_le (by simp)
  rw [frameBytes_eq_cons, decode_cons, htail, ← frameBytes_eq_cons, frameOfBytes_frameBytes] at h
  rw [decodeFrame_eq]
  split at h
  · have hlen := congrArg List.length (congrArg Prod.snd (Except.ok.inj h))
    simp at hlen
  · cases hm : classOfMagic (f.extractLsb' 0 8) with
    | none => simp [hm] at h
    | some k =>
      have hk : Config.std.frameFields k f = i := by simpa [hm] using h
      simp [hk]

/-- Settles O6: each clause is the step's own equation, with the joint decoder read at the port that the bytes are presented to. -/
theorem stepRunsTheDecodedInstruction : Obligations.StepRunsTheDecodedInstruction := by
  refine ⟨fun s v rest i hp hv hd => ?_, fun s f rest i hp hd => ?_, fun s hp => step_of_idle hp,
    fun s a rest hp => step_of_pending hp, fun s hu => refreshed_of_settled hu⟩
  · rw [step_of_pending hp]
    exact act_command _ hv (decodeCommand_of_decode_byte hd)
  · rw [step_of_pending hp]
    exact act_frame _ (decodeFrame_of_decode_frameBytes hd)

/-- A register's number names it. -/
theorem regOf_regNumber (r : Reg) : regOf (regNumber r) = some r := by
  cases r <;> rfl

/-- Settles O9: the three columns of R21's table, and the range of the register numbers. -/
theorem registerMap : Obligations.RegisterMap :=
  ⟨rfl, rfl, rfl, regOf_regNumber, fun _ hi => List.getElem?_eq_none hi⟩

end Sys2Proof.Machine
end

section
/-! PROOF. `MemRead` and `MemWrite` (20_memory R62, R63): what each kind of read of buffer space gives after a little-endian write. -/

namespace Sys2Proof.Machine

/-- Byte a+i after `MemWrite(a, n, v)`, for a v of any size. -/
theorem read_memWrite_inside (m : Memory) (a v : Nat) {n i : Nat} (h : i < n) :
    Memory.read (memWrite m a n v) (a + i) = some (BitVec.ofNat 8 (v >>> (8 * i))) := by
  rw [memWrite, Memory.read_writeBytes_inside _ _ _ (by simpa using h), leBytes_getElem? v h]

theorem read_memWrite_outside (m : Memory) (v : Nat) {a n x : Nat} (h : x < a ∨ a + n ≤ x) :
    Memory.read (memWrite m a n v) x = Memory.read m x :=
  Memory.read_writeBytes_outside m a _ (by simpa using h)

/-- `MemRead` after `MemWrite` at the same place keeps the low n bytes of the value. -/
theorem memRead_memWrite (m : Memory) (a n v : Nat) : memRead (memWrite m a n v) a n = .ok (v % 256 ^ n) := by
  have hfetch : fetchBytes (memWrite m a n v) a n = .ok (leBytes n v) := by
    simpa [memWrite] using fetchBytes_writeBytes m a (leBytes n v)
  rw [memRead, hfetch, map_ok, leValue_leBytes]

/-- Settles O45: a value below `2^(8n)` is its own low n bytes, and the other two clauses hold of every value. -/
theorem memReadAfterMemWrite : Obligations.MemReadAfterMemWrite := by
  intro m a n v hv
  have hfits : v < 256 ^ n := by simpa [pow_mul] using hv
  refine ⟨?_, fun i hi => read_memWrite_inside m a v hi, fun x hx => read_memWrite_outside m v hx⟩
  rw [memRead_memWrite, Nat.mod_eq_of_lt hfits]

end Sys2Proof.Machine
end

section
/-! PROOF. The encoder and the decoder (30_encoding R90 to R105). Every frame is seven fields laid end to end (`layout`): cutting them
out of `V` undoes laying them down, and the other way round, once for all six classes. -/

namespace Sys2Proof

/-- The bytes of two bit strings laid end to end, the lower one of whole bytes. -/
theorem leBytes_append {w : Nat} (m n : Nat) (x : BitVec w) (y : BitVec (8 * n)) :
    leBytes (n + m) (x ++ y).toNat = leBytes n y.toNat ++ leBytes m x.toNat := by
  simp only [leBytes_toNat, List.range_add, List.map_append, List.map_map]
  congr 1
  · apply List.map_congr_left
    intro i hi
    have hin : i < n := List.mem_range.mp hi
    exact BitVec.extractLsb'_append_eq_of_add_le (by omega)
  · apply List.map_congr_left
    intro i _
    simp only [Function.comp]
    rw [BitVec.extractLsb'_append_eq_of_le (by omega), show 8 * (n + i) - 8 * n = 8 * i by omega]

theorem leBytes_byte (b : Byte) : leBytes 1 b.toNat = [b] := by
  simp [leBytes]

/-- The fields of a frame laid end to end, the magic lowest, for any widths of address, data and padding (R91). -/
def layout {wa wd wp : Nat} (magic target flags reserved : Byte) (addr : BitVec wa) (data : BitVec wd) (padding : BitVec wp) :
    BitVec (wp + wd + wa + 8 + 8 + 8 + 8) :=
  padding ++ data ++ addr ++ reserved ++ flags ++ target ++ magic

/-- The bytes of a frame are its fields' bytes one after another. -/
theorem leBytes_layout (na nd np : Nat) (m t f r : Byte) (a : BitVec (8 * na)) (d : BitVec (8 * nd)) (p : BitVec (8 * np)) :
    leBytes (1 + (1 + (1 + (1 + (na + (nd + np)))))) (layout m t f r a d p).toNat =
      [m, t, f, r] ++ leBytes na a.toNat ++ leBytes nd d.toNat ++ leBytes np p.toNat := by
  rw [layout, leBytes_append (n := 1) (y := m), leBytes_append (n := 1) (y := t), leBytes_append (n := 1) (y := f),
    leBytes_append (n := 1) (y := r), leBytes_append (n := na), leBytes_append (n := nd)]
  simp [leBytes_byte]

/-- Each field is at its bits of `V` (R94 to R99). -/
theorem slices_layout {wa wd wp : Nat} (m t f r : Byte) (a : BitVec wa) (d : BitVec wd) (p : BitVec wp) :
    (layout m t f r a d p).extractLsb' 8 8 = t ∧ (layout m t f r a d p).extractLsb' 16 8 = f ∧
      (layout m t f r a d p).extractLsb' 24 8 = r ∧ (layout m t f r a d p).extractLsb' 32 wa = a ∧
      (layout m t f r a d p).extractLsb' (32 + wa) wd = d ∧ (layout m t f r a d p).extractLsb' (32 + wa + wd) wp = p := by
  unfold layout
  refine ⟨?_, ?_, ?_, ?_, ?_, ?_⟩ <;>
    simp (disch := omega) [BitVec.extractLsb'_append_eq_of_le, BitVec.extractLsb'_append_eq_right, Nat.sub_sub, Nat.add_assoc]

/-- The fields cut out of `V` and laid end to end again are `V`: no bit is dropped. -/
theorem layout_slices (wa wd wp : Nat) {v : BitVec (wp + wd + wa + 8 + 8 + 8 + 8)} {m : Byte} (hm : v.extractLsb' 0 8 = m) :
    layout m (v.extractLsb' 8 8) (v.extractLsb' 16 8) (v.extractLsb' 24 8) (v.extractLsb' 32 wa) (v.extractLsb' (32 + wa) wd)
      (v.extractLsb' (32 + wa + wd) wp) = v := by
  subst hm
  simp [layout, BitVec.extractLsb'_append_extractLsb'_eq_extractLsb']

/-- A frame with a class's magic is the encoding of the fields cut out of it. -/
theorem encode_frameFields {v : Frame} {k : FrameClass} (h : v.extractLsb' 0 8 = magicOf k) :
    encode (Config.std.frameFields k v) = frameBytes v := by
  cases k with
  | c8x8 => exact congrArg frameBytes (layout_slices 8 8 80 h)
  | c8x16 => exact congrArg frameBytes (layout_slices 8 16 72 h)
  | c8x32 => exact congrArg frameBytes (layout_slices 8 32 56 h)
  | c8x64 => exact congrArg frameBytes (layout_slices 8 64 24 h)
  | c16x64 => exact congrArg frameBytes (layout_slices 16 64 16 h)
  | c32x32 => exact congrArg frameBytes (layout_slices 32 32 32 h)

/-- A frame row's encoding is the bytes of one frame value, which has its class's magic and whose fields are the row's. -/
theorem exists_frame_of_row {i : Instr} (h : i.isCommand = false) :
    ∃ k v, encode i = frameBytes v ∧ v.extractLsb' 0 8 = magicOf k ∧ Config.std.frameFields k v = i := by
  cases i with
  | frame8x8 t f r a d p =>
    exact ⟨.c8x8, layout 0x41 t f r a d p, rfl, BitVec.extractLsb'_append_eq_right,
      (Instr.frame8x8.injEq ..).mpr (slices_layout 0x41 t f r a d p)⟩
  | frame8x16 t f r a d p =>
    exact ⟨.c8x16, layout 0x42 t f r a d p, rfl, BitVec.extractLsb'_append_eq_right,
      (Instr.frame8x16.injEq ..).mpr (slices_layout 0x42 t f r a d p)⟩
  | frame8x32 t f r a d p =>
    exact ⟨.c8x32, layout 0x43 t f r a d p, rfl, BitVec.extractLsb'_append_eq_right,
      (Instr.frame8x32.injEq ..).mpr (slices_layout 0x43 t f r a d p)⟩
  | frame8x64 t f r a d p =>
    exact ⟨.c8x64, layout 0x44 t f r a d p, rfl, BitVec.extractLsb'_append_eq_right,
      (Instr.frame8x64.injEq ..).mpr (slices_layout 0x44 t f r a d p)⟩
  | frame16x64 t f r a d p =>
    exact ⟨.c16x64, layout 0x45 t f r a d p, rfl, BitVec.extractLsb'_append_eq_right,
      (Instr.frame16x64.injEq ..).mpr (slices_layout 0x45 t f r a d p)⟩
  | frame32x32 t f r a d p =>
    exact ⟨.c32x32, layout 0x4B t f r a d p, rfl, BitVec.extractLsb'_append_eq_right,
      (Instr.frame32x32.injEq ..).mpr (slices_layout 0x4B t f r a d p)⟩
  | _ => cases h

/-- A class's magic selects that class (R92, R105). -/
theorem classOfMagic_magicOf (k : FrameClass) : classOfMagic (magicOf k) = some k := by
  cases k <;> rfl

theorem eq_magicOf_of_classOfMagic {b : Byte} {k : FrameClass} (h : classOfMagic b = some k) : b = magicOf k := by
  have hk : (magicOf k == b) = true := List.find?_some (p := fun k => Config.std.magic k == b) h
  exact (beq_iff_eq.mp hk).symm

/-- No magic is an opcode (R92, R100). -/
theorem decodeCommand_magicOf (k : FrameClass) : decodeCommand (magicOf k) = .error (.notAnOpcode (magicOf k)) := by
  cases k <;> rfl

theorem decodeFrame_of_magic {v : Frame} {k : FrameClass} (h : v.extractLsb' 0 8 = magicOf k) :
    decodeFrame v = .ok (Config.std.frameFields k v) := by
  rw [decodeFrame_eq, h, classOfMagic_magicOf]

/-- What the transport port's decoder answers is the instruction whose encoding the frame is (R93, R105). -/
theorem encode_of_decodeFrame {v : Frame} {i : Instr} (h : decodeFrame v = .ok i) : encode i = frameBytes v := by
  rw [decodeFrame_eq] at h
  split at h
  · rename_i k hk
    cases h
    exact encode_frameFields (eq_magicOf_of_classOfMagic hk)
  · cases h

/-- A command's encoding is one byte, which the command port decodes to it (R100, R106). -/
theorem exists_opcode_of_command {i : Instr} (h : i.isCommand = true) : ∃ b, encode i = [b] ∧ decodeCommand b = .ok i := by
  cases i with
  | frame8x8 | frame8x16 | frame8x32 | frame8x64 | frame16x64 | frame32x32 => cases h
  | _ => exact ⟨_, rfl, rfl⟩

/-- What the command port's decoder answers is encoded by the byte decoded (R100). -/
theorem encode_of_decodeCommand {b : Byte} {i : Instr} (h : decodeCommand b = .ok i) : encode i = [b] :=
  (by decide : ∀ row ∈ commandTable Config.std, encode row.2 = [row.1]) _ (Machine.mem_commandTable_of_decodeCommand h)

/-- Sixteen bytes whose first is a magic decode as the frame they are, whatever follows. -/
theorem decode_frameBytes {v : Frame} {k : FrameClass} (h : v.extractLsb' 0 8 = magicOf k) (rest : List Byte) :
    decode (frameBytes v ++ rest) = .ok (Config.std.frameFields k v, rest) := by
  have htake : (leBytes 15 (v.toNat / 256) ++ rest).take 15 = leBytes 15 (v.toNat / 256) := List.take_left' (leBytes_length _ _)
  have hdrop : (leBytes 15 (v.toNat / 256) ++ rest).drop 15 = rest := List.drop_left' (leBytes_length _ _)
  have hlen : ¬ (leBytes 15 (v.toNat / 256) ++ rest).length < 15 := by simp
  rw [Machine.frameBytes_eq_cons, List.cons_append, decode_cons, htake, hdrop, ← Machine.frameBytes_eq_cons,
    frameOfBytes_frameBytes, h, decodeCommand_magicOf, classOfMagic_magicOf]
  simp only [if_neg hlen]

/-- Settles O1: a command is one opcode, and a frame row is one frame value with its class's magic. -/
theorem decodeInvertsEncode : Obligations.DecodeInvertsEncode := by
  intro i rest
  cases hi : i.isCommand with
  | true =>
    obtain ⟨b, hb, hd⟩ := exists_opcode_of_command hi
    rw [hb, List.singleton_append, decode_cons, hd]
  | false =>
    obtain ⟨k, v, hv, hm, rfl⟩ := exists_frame_of_row hi
    rw [hv, decode_frameBytes hm]

/-- The first byte of a list of sixteen is the magic of the frame they are (R93). -/
theorem magic_frameOfBytes {b : Byte} {bs : List Byte} (h : bs.length = 15) : (frameOfBytes (b :: bs)).extractLsb' 0 8 = b := by
  have hbytes := frameBytes_frameOfBytes (bs := b :: bs) (by simp [h])
  rw [Machine.frameBytes_eq_cons] at hbytes
  exact (List.cons.inj hbytes).1

/-- Settles O2, along the decoder's branches: an opcode, or a magic with fifteen bytes after it. -/
theorem encodeInvertsDecode : Obligations.EncodeInvertsDecode := by
  intro bs rest i h
  cases bs with
  | nil => cases h
  | cons b tail =>
    rw [decode_cons] at h
    split at h
    · rename_i j hj
      cases h
      rw [encode_of_decodeCommand hj, List.singleton_append]
    · split at h
      · cases h
      · rename_i k hk
        split_ifs at h with hlen
        cases h
        have hfifteen : (tail.take 15).length = 15 := by simp; omega
        have hmagic : (frameOfBytes (b :: tail.take 15)).extractLsb' 0 8 = magicOf k :=
          (magic_frameOfBytes hfifteen).trans (eq_magicOf_of_classOfMagic hk)
        rw [encode_frameFields hmagic, frameBytes_frameOfBytes (by simp [hfifteen]), List.cons_append, List.take_append_drop]

/-- The bytes of a frame with reserved byte and padding zero, which is what BUILD emits (R104). -/
theorem leBytes_layout_padded (na nd np : Nat) (m t f : Byte) (a : BitVec (8 * na)) (d : BitVec (8 * nd)) :
    leBytes (1 + (1 + (1 + (1 + (na + (nd + np)))))) (layout m t f 0 a d (0 : BitVec (8 * np))).toNat =
      [m, t, f, 0] ++ leBytes na a.toNat ++ leBytes nd d.toNat ++ List.replicate np 0 := by
  have hzero : leBytes np (0 : BitVec (8 * np)).toNat = List.replicate np 0 := by
    rw [leBytes_toNat]
    simp [List.map_const']
  rw [leBytes_layout, hzero]

/-- Settles O3: the bytes of each layout, and the fields that its class's magic selects. -/
theorem frameFormatsPlaceFields : Obligations.FrameFormatsPlaceFields := by
  refine ⟨fun t f a d => ?_, fun t f a d => ?_, fun t f a d => ?_, fun t f a d => ?_, fun t f a d => ?_, fun t f a d => ?_,
    fun v h => decodeFrame_of_magic (k := .c8x8) h, fun v h => decodeFrame_of_magic (k := .c8x16) h,
    fun v h => decodeFrame_of_magic (k := .c8x32) h, fun v h => decodeFrame_of_magic (k := .c8x64) h,
    fun v h => decodeFrame_of_magic (k := .c16x64) h, fun v h => decodeFrame_of_magic (k := .c32x32) h⟩
  · exact (leBytes_layout_padded 1 1 10 0x41 t f a d).trans (by rw [leBytes_byte, leBytes_byte]; rfl)
  · exact (leBytes_layout_padded 1 2 9 0x42 t f a d).trans (by rw [leBytes_byte, leBytes_toNat 2 d]; rfl)
  · exact (leBytes_layout_padded 1 4 7 0x43 t f a d).trans (by rw [leBytes_byte, leBytes_toNat 4 d]; rfl)
  · exact (leBytes_layout_padded 1 8 3 0x44 t f a d).trans (by rw [leBytes_byte, leBytes_toNat 8 d]; rfl)
  · exact (leBytes_layout_padded 2 8 2 0x45 t f a d).trans (by rw [leBytes_toNat 2 a, leBytes_toNat 8 d]; rfl)
  · exact (leBytes_layout_padded 4 4 4 0x4B t f a d).trans (by rw [leBytes_toNat 4 a, leBytes_toNat 4 d]; rfl)

/-- Settles O4: the bytes are evaluated. -/
theorem commandWordsDecode : Obligations.CommandWordsDecode := ⟨rfl, rfl, rfl, rfl, rfl, rfl⟩

end Sys2Proof
end

section
/-! PROOF. What reaches the block's two ports (30_encoding R103; 44_system R228): a byte that is no opcode raises at the command port,
and every frame, a row of the table or not, is delivered into `RXF`. -/

namespace Sys2Proof.Machine

/-- A byte that is not in the opcode map is no command (30_encoding R103). -/
theorem decodeCommand_of_not_opcode {b : Byte} (h : ∀ row ∈ commandTable Config.std, row.1 ≠ b) :
    decodeCommand b = .error (.notAnOpcode b) := by
  have hnone : (commandTable Config.std).find? (fun row => row.1 == b) = none := by simpa using h
  simp only [decodeCommand, Config.decodeCommand, hnone]

/-- A write to `CMD` of a byte that is no opcode records InvalidState sub-code 1 (10_state R22, 30_encoding R103). -/
theorem act_of_not_opcode {v : Nat} {e : DecodeError} (s : State) (hv : v < 256)
    (hd : decodeCommand (BitVec.ofNat 8 v) = .error e) :
    act (.wr 0 v) s = .next (s.mapBlock (recordCause .invalidState 1 (BitVec.ofNat 8 v))) := by
  have hd' : Config.std.decodeCommand (BitVec.ofNat 8 v) = .error e := hd
  apply act_of_done
  simp [respond, hostWrite, regOf, regList, regAccess, regWidth, commandByte, hd', Nat.not_le.mpr hv]

/-- Settles O5: the opcodes of the table are the twenty numbers listed. -/
theorem illegalCommandByteRaises : Obligations.IllegalCommandByteRaises := by
  intro s v hv hnot
  have hd : decodeCommand (BitVec.ofNat 8 v) = .error (.notAnOpcode (BitVec.ofNat 8 v)) := by
    refine decodeCommand_of_not_opcode fun row hrow hb => hnot ?_
    have hnum : row.1.toNat = v := by simp [hb, Nat.mod_eq_of_lt hv]
    exact hnum ▸ (by decide : ∀ row ∈ commandTable Config.std, row.1.toNat ∈ [0x01, 0x10, 0x11, 0x12, 0x13, 0x14, 0x15,
      0x20, 0x21, 0x22, 0x23, 0x24, 0x25, 0x30, 0x31, 0x32, 0x33, 0x34, 0x35, 0x36]) row hrow
  exact act_of_not_opcode s hv hd

/-- A frame row lays its sixteen bytes into `RXF` (44_system R228). -/
theorem exec_row_delivers {i : Instr} (s : State) (h : i.isCommand = false) :
    exec i s = .next (s.mapBlock (storeBytes rxfBase (encode i))) := by
  obtain ⟨k, v, hv, _⟩ := exists_frame_of_row h
  rw [exec_row s h, hv, frameOfBytes_frameBytes]
  rfl

/-- Settles O8: each of the six is a row. -/
theorem frameRowsAreDelivered : Obligations.FrameRowsAreDelivered :=
  ⟨fun s _ _ _ _ _ _ => exec_row_delivers s rfl, fun s _ _ _ _ _ _ => exec_row_delivers s rfl,
   fun s _ _ _ _ _ _ => exec_row_delivers s rfl, fun s _ _ _ _ _ _ => exec_row_delivers s rfl,
   fun s _ _ _ _ _ _ => exec_row_delivers s rfl, fun s _ _ _ _ _ _ => exec_row_delivers s rfl⟩

/-- `deliver` lays the frame's sixteen bytes into `RXF`, whether it is a row of the table or not (44_system R228). -/
theorem act_deliver (f : Frame) (s : State) :
    act (.deliver f) s = .next (s.mapBlock (storeBytes rxfBase (frameBytes f))) := by
  cases hd : decodeFrame f with
  | ok i =>
    rw [act_frame s hd, exec_frame s hd, encode_of_decodeFrame hd, frameOfBytes_frameBytes]
    rfl
  | error e =>
    have hd' : Config.std.decodeFrame f = .error e := hd
    apply act_of_done
    simp only [respond, transportDeliver, hd']
    rfl

end Sys2Proof.Machine
end

section
/-! PROOF. PARSE.k of a frame that was delivered (41_frame_parse R151, R152): each read of `RXF` gives the frame's bits, and a good
response ends with no cause. -/

namespace Sys2Proof.Machine

/-- A command's read of some of the bytes just written. -/
theorem fetchBytes_writeBytes_part (m : Memory) (a : Nat) (bs : List Byte) {j n : Nat} (h : j + n ≤ bs.length) :
    fetchBytes (Memory.writeBytes m a bs) (a + j) n = .ok ((bs.drop j).take n) := by
  have hlen : ((bs.drop j).take n).length = n := by simp; omega
  have hread : ∀ i, i < ((bs.drop j).take n).length →
      Memory.read (Memory.writeBytes m a bs) (a + j + i) = ((bs.drop j).take n)[i]? := by
    intro i hi
    rw [Nat.add_assoc, Memory.read_writeBytes_inside _ _ _ (by omega), List.getElem?_take_of_lt (by omega), List.getElem?_drop]
  have hfetch := fetchBytes_of_read hread
  rwa [hlen] at hfetch

/-- The bytes j to j+n-1 of a frame are its bits from 8j on (30_encoding R93). -/
theorem leValue_frameBytes_part (f : Frame) {j n : Nat} (h : j + n ≤ 16) :
    leValue (((frameBytes f).drop j).take n) = (f.extractLsb' (8 * j) (8 * n)).toNat := by
  have hpart : ((frameBytes f).drop j).take n = leBytes n (f.toNat >>> (8 * j)) := by
    apply List.ext_getElem?
    intro i
    by_cases hi : i < n
    · have hbyte : (frameBytes f)[j + i]? = some (BitVec.ofNat 8 (f.toNat >>> (8 * (j + i)))) :=
        leBytes_getElem? _ (show j + i < 16 by omega)
      rw [List.getElem?_take_of_lt hi, List.getElem?_drop, hbyte, leBytes_getElem? _ hi, ← Nat.shiftRight_add, Nat.mul_add]
    · rw [List.getElem?_eq_none (by simp; omega), List.getElem?_eq_none (by simp; omega)]
  rw [hpart, leValue_leBytes, BitVec.extractLsb'_toNat, Nat.pow_mul]

/-- A field of a delivered frame, read from `RXF` (20_memory R62, R64). -/
theorem fetchField_delivered (m : Memory) (f : Frame) {j n : Nat} (h : j + n ≤ 16) :
    fetchField .little (Memory.writeBytes m rxfBase (frameBytes f)) (rxfBase + j) n = .ok (f.extractLsb' (8 * j) (8 * n)).toNat := by
  rw [fetchField, fetchBytes_writeBytes_part _ _ _ (by simpa using h), map_ok]
  exact congrArg Except.ok (leValue_frameBytes_part f h)

theorem fetchByte_delivered (m : Memory) (f : Frame) {j : Nat} (h : j < 16) :
    fetchByte (Memory.writeBytes m rxfBase (frameBytes f)) (rxfBase + j) = .ok (f.extractLsb' (8 * j) 8) := by
  have hbytes : frameBytes f = (List.range 16).map (fun i => f.extractLsb' (8 * i) 8) := leBytes_toNat 16 f
  apply fetchByte_of_read
  rw [Memory.read_writeBytes_inside _ _ _ (by simpa using h)]
  simp [hbytes, h]

/-- The fields that PARSE.k finds in a frame of its class (30_encoding R94 to R99). -/
def fieldsOf (k : FrameClass) (f : Frame) : Parsed :=
  ⟨f.extractLsb' 8 8, f.extractLsb' 16 8, (f.extractLsb' 32 k.aw).toNat, (f.extractLsb' (32 + k.aw) k.dw).toNat⟩

/-- The response to a request of class k for target t: its magic, its target id and a set success bit (41_frame_parse R151, R152). -/
structure GoodResponse (k : FrameClass) (t : Nat) (f : Frame) : Prop where
  magic : f.extractLsb' 0 8 = magicOf k
  target : f.extractLsb' 8 8 = BitVec.ofNat 8 t
  success : f.getLsbD 17 = true

/-- PARSE.k of a delivered frame of its class, with the target id that the frame has, finds its fields (41_frame_parse R151). -/
theorem parseBytes_delivered {k : FrameClass} (m : Memory) {f : Frame} (hm : f.extractLsb' 0 8 = magicOf k) :
    parseBytes Config.std k (Memory.writeBytes m rxfBase (frameBytes f)) (f.extractLsb' 8 8) = .ok (fieldsOf k f) := by
  have hna : 8 * Config.std.na k = k.aw := by cases k <;> rfl
  have hnd : 8 * Config.std.nd k = k.dw := by cases k <;> rfl
  have hfits : 4 + Config.std.na k + Config.std.nd k ≤ 16 := by cases k <;> decide
  have h0 := (fetchByte_delivered m f (j := 0) (by decide)).trans (congrArg Except.ok hm)
  have h1 := fetchByte_delivered m f (j := 1) (by decide)
  have h2 := fetchByte_delivered m f (j := 2) (by decide)
  have haddr := fetchField_delivered m f (j := 4) (n := Config.std.na k) (by omega)
  have hdata := fetchField_delivered m f (j := 4 + Config.std.na k) (n := Config.std.nd k) hfits
  rw [hna] at haddr
  rw [Nat.mul_add, hna, hnd, ← Nat.add_assoc] at hdata
  have hmagic : ¬ magicOf k ≠ Config.std.magic k := fun hne => hne rfl
  have hlittle : Config.std.fieldEndian = .little := rfl
  simp only [parseBytes, h0, h1, h2, ok_bind, raiseIf_bind, hlittle, haddr, hdata, if_neg hmagic, ne_eq, not_true_eq_false,
    and_false, if_false, pure_eq_ok]
  rfl

/-- The success bit of a frame is `V[17]`: flags bit 1 (10_state R31, R32). -/
theorem successFlag_flags (f : Frame) : successFlag (f.extractLsb' 16 8) = BitVec.ofBool (f.getLsbD 17) := by
  apply BitVec.eq_of_getLsbD_eq
  intro i hi
  obtain rfl : i = 0 := by omega
  simp [successFlag]

/-- PARSE.k of a good response ends with no cause (41_frame_parse R152). -/
theorem parseFrame_delivered {k : FrameClass} {t : Nat} {f : Frame} {m : Memory} {b : Block} (hf : GoodResponse k t f)
    (hmem : b.mem = Memory.writeBytes m rxfBase (frameBytes f)) (htid : b.fTid = BitVec.ofNat 8 t) :
    parseFrame Config.std k b = .next (endNormally (withParsed (fieldsOf k f) b)) := by
  have hflag : successFlag (fieldsOf k f).flags ≠ 0 := by
    rw [fieldsOf, successFlag_flags, hf.success]
    decide
  rw [parseFrame, hmem, htid, ← hf.target, parseBytes_delivered m hf.magic, map_ok, finish_ok, endParse, if_neg hflag]

end Sys2Proof.Machine
end

section
/-! PROOF. One facade call (30_encoding R112), action by action. Between two actions a register that nothing has written takes a new
value (10_state R37), so what the call counts on is that a register `Keeps` a value: it was written, and reads as that value. -/

namespace Sys2Proof.Machine

theorem readReg_storeBytes (r : Reg) (a : Nat) (bs : List Byte) (b : Block) : readReg r (storeBytes a bs b) = readReg r b := by
  cases r <;> rfl

@[simp] theorem refreshed_mem (s : State) : (refreshed s).mem = s.mem := refresh_mem Config.std s.toBlock

@[simp] theorem refreshed_lastErr (s : State) : (refreshed s).lastErr = s.lastErr := refresh_lastErr Config.std s.toBlock

/-- A register holds a specified value: something has written it, so it is not drawn anew (10_state R37). -/
def Keeps (r : Reg) (v : BitVec 64) (b : Block) : Prop := r ∉ b.unset ∧ readReg r b = v

theorem Keeps.refreshed {r : Reg} {v : BitVec 64} {s : State} (h : Keeps r v s.toBlock) : Keeps r v (refreshed s).toBlock := by
  obtain ⟨hset, hread⟩ := h
  exact ⟨by simpa [Machine.refreshed, State.mapBlock] using hset, (readReg_refresh _ hset).trans hread⟩

/-- A good `wr` (44_system R221): the register keeps the value, and every other register what it kept. -/
theorem turn_wr {i v : Nat} {r : Reg} (s : State) (hr : regOf i = some r) (hw : regAccess r = .readWrite)
    (hv : v < 2 ^ regWidth Config.std r) :
    ∃ t, turn (.wr i v) s = .next t ∧ Keeps r (BitVec.ofNat 64 v) t.toBlock ∧
      ∀ r' w, r' ≠ r → Keeps r' w s.toBlock → Keeps r' w t.toBlock := by
  have hcmd : r ≠ .cmd := by rintro rfl; cases hw
  have hdata : r ∈ dataRegs := by revert hw; cases r <;> decide
  refine ⟨(refreshed s).mapBlock (writeReg r v), act_of_done ?_, ⟨by simp [State.mapBlock], readReg_setReg_same _ hdata hv⟩,
    fun r' w hne hk => ?_⟩
  · simp [respond, hostWrite, hr, hw, hcmd, Nat.not_le.mpr hv]
  · obtain ⟨hset, hread⟩ := hk.refreshed
    exact ⟨by simp [State.mapBlock, hset], (readReg_writeReg_other v _ hne).trans hread⟩

/-- A `rd` of a register that exists leaves the error registers and what a register keeps (44_system R220). -/
theorem turn_rd {i : Nat} {r : Reg} (s : State) (hr : regOf i = some r) :
    ∃ t, turn (.rd i) s = .next t ∧ t.lastErr = s.lastErr ∧ ∀ r' w, Keeps r' w s.toBlock → Keeps r' w t.toBlock := by
  have hresp : respond Config.std (.rd i) (refreshed s).toBlock =
      .handed (.hostReceived (readReg r (refreshed s).toBlock)) (refreshed s).toBlock := by
    simp only [respond, hostRead, hr]
  exact ⟨_, act_of_handed hresp, refreshed_lastErr s, fun _ _ hk => hk.refreshed⟩

/-- After a `deliver` the frame's bytes are in `RXF`, and a register keeps what it kept (44_system R228). -/
theorem turn_deliver (f : Frame) (s : State) :
    ∃ t m, turn (.deliver f) s = .next t ∧ t.mem = Memory.writeBytes m rxfBase (frameBytes f) ∧
      ∀ r w, Keeps r w s.toBlock → Keeps r w t.toBlock := by
  have hstored : turn (.deliver f) s = .next ((refreshed s).mapBlock (storeBytes rxfBase (frameBytes f))) := by
    rw [turn, act_deliver]
  refine ⟨_, (refreshed s).mem, hstored, by simp, fun r w hk => ?_⟩
  obtain ⟨hset, hread⟩ := hk.refreshed
  exact ⟨by simpa using hset, by simpa [readReg_storeBytes] using hread⟩

/-- `cmd MNEMONIC` runs the command (30_encoding R108). -/
theorem turn_command {i : Instr} (s : State) (hi : i.isCommand = true) : turn (command i) s = exec i (refreshed s) := by
  obtain ⟨b, hb, hd⟩ := exists_opcode_of_command hi
  have hnum : leValue (encode i) = b.toNat := by simp [hb, leValue]
  rw [command, hnum]
  exact act_command _ b.isLt (by simpa using hd)

theorem turn_buildInstr (k : FrameClass) (s : State) :
    turn (command (buildInstr k)) s = onBlock (buildFrame Config.std k) (refreshed s) := by
  cases k <;> exact turn_command s rfl

theorem turn_parseInstr (k : FrameClass) (s : State) :
    turn (command (parseInstr k)) s = onBlock (parseFrame Config.std k) (refreshed s) := by
  cases k <;> exact turn_command s rfl

/-- BUILD.k of operands that fit lays sixteen bytes into `TXF` (40_frame_build R131). -/
theorem buildFrame_of_fits {k : FrameClass} {b : Block} (ha : b.fAddr.toNat < 2 ^ k.aw) (hd : b.fData.toNat < 2 ^ k.dw) :
    ∃ bs, bs.length = 16 ∧ buildFrame Config.std k b = .next (endNormally (storeBytes txfBase bs b)) := by
  have haddr : ¬ 2 ^ Config.std.aw k ≤ b.fAddr.toNat := Nat.not_le.mpr ha
  have hdata : ¬ 2 ^ Config.std.dw k ≤ b.fData.toNat := Nat.not_le.mpr hd
  have hbytes := buildBytes_eq Config.std k b.fTid b.fFlags b.fAddr.toNat b.fData.toNat
  rw [if_neg haddr, if_neg hdata] at hbytes
  exact ⟨_, buildBytes_length hbytes, by rw [buildFrame, hbytes, map_ok, finish_ok]⟩

/-- An operand register that keeps a value below its width holds that value. -/
theorem Keeps.fAddr_toNat {a : Nat} {b : Block} (h : Keeps .fAddr (BitVec.ofNat 64 a) b) (ha : a < 2 ^ 32) : b.fAddr.toNat = a := by
  have hread := congrArg BitVec.toNat h.2
  have hlt := b.fAddr.isLt
  simp only [readReg, BitVec.toNat_setWidth, BitVec.toNat_ofNat] at hread
  omega

theorem Keeps.fData_toNat {d : Nat} {b : Block} (h : Keeps .fData (BitVec.ofNat 64 d) b) (hd : d < 2 ^ 64) : b.fData.toNat = d := by
  have hread := congrArg BitVec.toNat h.2
  simp only [readReg, BitVec.toNat_setWidth, BitVec.toNat_ofNat] at hread
  omega

theorem Keeps.fTid_eq {t : Nat} {b : Block} (h : Keeps .fTid (BitVec.ofNat 64 t) b) : b.fTid = BitVec.ofNat 8 t := by
  have hread := congrArg (BitVec.setWidth 8) h.2
  simpa [readReg, BitVec.setWidth_ofNat_of_le] using hread

/-- Every class's address fits `F_ADDR`, and its data `F_DATA` (10_state R21, 30_encoding R92). -/
theorem two_pow_aw_le (k : FrameClass) : 2 ^ k.aw ≤ 2 ^ 32 := by
  cases k <;> decide

theorem two_pow_dw_le (k : FrameClass) : 2 ^ k.dw ≤ 2 ^ 64 := by
  cases k <;> decide

/-- BUILD.k of operands that fit writes `TXF` and leaves `F_TID` as it is. -/
theorem turn_build {k : FrameClass} {a d : Nat} {s : State} (haddr : Keeps .fAddr (BitVec.ofNat 64 a) s.toBlock)
    (hdata : Keeps .fData (BitVec.ofNat 64 d) s.toBlock) (ha : a < 2 ^ k.aw) (hd : d < 2 ^ k.dw) :
    ∃ t bs, turn (command (buildInstr k)) s = .next t ∧ fetchBytes t.mem txfBase 16 = .ok bs ∧
      ∀ v, Keeps .fTid v s.toBlock → Keeps .fTid v t.toBlock := by
  have ha32 : a < 2 ^ 32 := ha.trans_le (two_pow_aw_le k)
  have hd64 : d < 2 ^ 64 := hd.trans_le (two_pow_dw_le k)
  have hfa : (refreshed s).fAddr.toNat < 2 ^ k.aw := (haddr.refreshed.fAddr_toNat ha32).symm ▸ ha
  have hfd : (refreshed s).fData.toNat < 2 ^ k.dw := (hdata.refreshed.fData_toNat hd64).symm ▸ hd
  obtain ⟨bs, hlen, hbuild⟩ := buildFrame_of_fits hfa hfd
  have hfetch := fetchBytes_writeBytes (refreshed s).mem txfBase bs
  rw [hlen] at hfetch
  exact ⟨_, bs, (turn_buildInstr k s).trans (onBlock_of_next hbuild), hfetch, fun _ h => h.refreshed⟩

/-- `take` hands out the sixteen bytes of `TXF` once they are written (44_system R228). -/
theorem turn_take {s : State} {bs : List Byte} (h : fetchBytes s.mem txfBase 16 = .ok bs) :
    turn .take s = .next (observe (.requestLeft (frameOfBytes bs)) (refreshed s)) := by
  have hfetch : fetchBytes (refreshed s).mem txfBase Config.std.frameLen = .ok bs := by
    simpa [Config.std] using h
  have hresp : respond Config.std .take (refreshed s).toBlock =
      .handed (.requestLeft (frameOfBytes bs)) (refreshed s).toBlock := by
    simp only [respond, transportTake, hfetch, map_ok, handOut]
  exact act_of_handed hresp

theorem perform_cons {a : Action} {rest : List Action} {s t : State} (h : turn a s = .next t) :
    perform (a :: rest) s = perform rest t := by
  simp only [perform, h, andThen]

/-- The request half of a facade call, and the request leaves: `F_TID` keeps the target id (30_encoding R112). -/
theorem perform_request {k : FrameClass} {t flags a d : Nat} (s : State) (ht : t < 256) (hf : flags < 256) (ha : a < 2 ^ k.aw)
    (hd : d < 2 ^ k.dw) :
    ∃ u, perform (request k t flags a d ++ [.take]) s = .next u ∧ Keeps .fTid (BitVec.ofNat 64 t) u.toBlock := by
  obtain ⟨s1, h1, tid1, -⟩ := turn_wr (i := 4) s rfl rfl ht
  obtain ⟨s2, h2, -, keep2⟩ := turn_wr (i := 5) s1 rfl rfl hf
  obtain ⟨s3, h3, addr3, keep3⟩ := turn_wr (i := 6) s2 rfl rfl (ha.trans_le (two_pow_aw_le k))
  obtain ⟨s4, h4, data4, keep4⟩ := turn_wr (i := 7) s3 rfl rfl (hd.trans_le (two_pow_dw_le k))
  obtain ⟨s5, bs, h5, hfetch, keep5⟩ := turn_build (keep4 _ _ (by decide) addr3) data4 ha hd
  have tid4 := keep4 _ _ (by decide) (keep3 _ _ (by decide) (keep2 _ _ (by decide) tid1))
  refine ⟨observe (.requestLeft (frameOfBytes bs)) (refreshed s5), ?_, (keep5 _ tid4).refreshed⟩
  show perform [.wr 4 t, .wr 5 flags, .wr 6 a, .wr 7 d, command (buildInstr k), .take] s = _
  rw [perform_cons h1, perform_cons h2, perform_cons h3, perform_cons h4, perform_cons h5, perform_cons (turn_take hfetch)]
  rfl

/-- After PARSE.k of a good response `LAST_ERR` is 0 and `P_DATA` keeps the data field. -/
theorem turn_parse_delivered {k : FrameClass} {t : Nat} {f : Frame} {m : Memory} {s : State} (hf : GoodResponse k t f)
    (hmem : s.mem = Memory.writeBytes m rxfBase (frameBytes f)) (htid : Keeps .fTid (BitVec.ofNat 64 t) s.toBlock) :
    ∃ u, turn (command (parseInstr k)) s = .next u ∧ u.lastErr = 0 ∧
      Keeps .pData ((f.extractLsb' (32 + k.aw) k.dw).setWidth 64) u.toBlock := by
  have hparse := parseFrame_delivered hf ((refreshed_mem s).trans hmem) htid.refreshed.fTid_eq
  refine ⟨_, (turn_parseInstr k s).trans (onBlock_of_next hparse), rfl, by simp, ?_⟩
  simp only [readReg, endNormally_pData, withParsed_pData, fieldsOf, BitVec.ofNat_toNat, BitVec.setWidth_eq]

/-- The response half of a facade call, with a good response in `RXF`, ends with its data field (30_encoding R112). -/
theorem collect_delivered {k : FrameClass} {t : Nat} {f : Frame} {m : Memory} {s : State} (hf : GoodResponse k t f)
    (hmem : s.mem = Memory.writeBytes m rxfBase (frameBytes f)) (htid : Keeps .fTid (BitVec.ofNat 64 t) s.toBlock) :
    ∃ u, collect k s = .next (.value ((f.extractLsb' (32 + k.aw) k.dw).setWidth 64), u) := by
  obtain ⟨s1, h1, herr1, hdata1⟩ := turn_parse_delivered hf hmem htid
  obtain ⟨s2, h2, herr2, keep2⟩ := turn_rd (i := 1) s1 rfl
  obtain ⟨s3, h3, -, keep3⟩ := turn_rd (i := 11) s2 rfl
  have hnoCause : s2.lastErr = 0 := herr2.trans herr1
  have hdata3 : s3.pData = (f.extractLsb' (32 + k.aw) k.dw).setWidth 64 := by
    simpa [readReg] using (keep3 _ _ (keep2 _ _ hdata1)).2
  refine ⟨s3, ?_⟩
  rw [collect, perform_cons h1, perform_cons h2]
  simp only [perform, andThen, hnoCause, if_true, h3, hdata3]

/-- Settles O44: the request half keeps the target id, the delivery leaves it, and the response half finds the data field. -/
theorem facadeReadReturnsTheResponseData : Obligations.FacadeReadReturnsTheResponseData := by
  refine ⟨fun k t a f s ht ha hm htgt hok => ?_, fun k t a s ht ha => ?_⟩
  · obtain ⟨u, hu, htid⟩ := perform_request s ht (by decide : 0x00 < 256) ha (Nat.two_pow_pos k.dw)
    obtain ⟨v, m, hv, hmem, hkeep⟩ := turn_deliver f u
    obtain ⟨s', hs'⟩ := collect_delivered ⟨hm, htgt, hok⟩ hmem (hkeep _ _ htid)
    refine ⟨s', ?_⟩
    simp only [facadeRead, facadeCall, hu, andThen, hv, hs']
  · obtain ⟨u, hu, -⟩ := perform_request s ht (by decide : 0x00 < 256) ha (Nat.two_pow_pos k.dw)
    refine ⟨u, ?_⟩
    simp only [facadeRead, facadeCall, hu, andThen, causeCode]

end Sys2Proof.Machine
end

section
/-! PROOF. BUILD.k (40_frame_build R130 to R139): one equation for what it answers, whatever the class and the operands; each class's
rule (R132 to R137) is that equation at the class. The frame laid down is one whose fields PARSE finds again. -/

namespace Sys2Proof.Machine

theorem exec_buildInstr (k : FrameClass) (s : State) : exec (buildInstr k) s = onBlock (buildFrame Config.std k) s := by
  cases k <;> rfl

/-- The sixteen bytes BUILD.k lays into `TXF`: the magic, the four operands' bytes with the lowest of a field first, zero padding
(R132 to R137). -/
def builtBytes (k : FrameClass) (b : Block) : List Byte :=
  [magicOf k, b.fTid, b.fFlags, 0] ++ (List.range k.na).map (fun i => b.fAddr.extractLsb' (8 * i) 8)
    ++ (List.range k.nd).map (fun i => b.fData.extractLsb' (8 * i) 8) ++ List.replicate (12 - k.na - k.nd) 0

@[simp] theorem builtBytes_length (k : FrameClass) (b : Block) : (builtBytes k b).length = 16 := by
  cases k <;> rfl

/-- The two tests in their order, and the bytes (R131). -/
theorem buildBytes_std (k : FrameClass) (b : Block) :
    buildBytes Config.std k b.fTid b.fFlags b.fAddr.toNat b.fData.toNat =
      if 2 ^ k.aw ≤ b.fAddr.toNat then .error (.raise .invalidState 2 0)
      else if 2 ^ k.dw ≤ b.fData.toNat then .error (.raise .invalidState 2 1)
      else .ok (builtBytes k b) := by
  rw [buildBytes_eq, builtBytes, ← leBytes_toNat, ← leBytes_toNat]
  rfl

/-- BUILD.k as a whole: either test raises and nothing else happens, or `TXF` is written and there is no cause (R131). -/
theorem exec_buildInstr_eq (k : FrameClass) (s : State) :
    exec (buildInstr k) s =
      if 2 ^ k.aw ≤ s.fAddr.toNat then .next { s with lastErr := 6, errs := s.errs ||| 0x40, errInfo := 0x0200 }
      else if 2 ^ k.dw ≤ s.fData.toNat then .next { s with lastErr := 6, errs := s.errs ||| 0x40, errInfo := 0x0201 }
      else .next { s with lastErr := 0, mem := Memory.writeBytes s.mem txfBase (builtBytes k s.toBlock) } := by
  rw [exec_buildInstr, onBlock, buildFrame, buildBytes_std]
  split_ifs <;> rfl

/-- Settles O27: `exec_buildInstr_eq` at the class. -/
theorem build8x8WritesTheFrame : Obligations.Build8x8WritesTheFrame := exec_buildInstr_eq .c8x8

/-- Settles O28: `exec_buildInstr_eq` at the class. -/
theorem build8x16WritesTheFrame : Obligations.Build8x16WritesTheFrame := exec_buildInstr_eq .c8x16

/-- Settles O29: `exec_buildInstr_eq` at the class. -/
theorem build8x32WritesTheFrame : Obligations.Build8x32WritesTheFrame := exec_buildInstr_eq .c8x32

/-- BUILD.k of a class with 64 data bits tests the address alone: `F_DATA` is itself 64 bits wide (R135, R136). -/
theorem exec_buildInstr_of_wide_data {k : FrameClass} (hk : k.dw = 64) (s : State) :
    exec (buildInstr k) s =
      if 2 ^ k.aw ≤ s.fAddr.toNat then .next { s with lastErr := 6, errs := s.errs ||| 0x40, errInfo := 0x0200 }
      else .next { s with lastErr := 0, mem := Memory.writeBytes s.mem txfBase (builtBytes k s.toBlock) } := by
  rw [exec_buildInstr_eq, hk, if_neg (Nat.not_le.mpr s.fData.isLt)]

/-- Settles O30: the data test never fires. -/
theorem build8x64WritesTheFrame : Obligations.Build8x64WritesTheFrame := exec_buildInstr_of_wide_data (k := .c8x64) rfl

/-- Settles O31: the data test never fires. -/
theorem build16x64WritesTheFrame : Obligations.Build16x64WritesTheFrame := exec_buildInstr_of_wide_data (k := .c16x64) rfl

/-- Settles O32: the address test never fires, since `F_ADDR` is itself 32 bits wide. -/
theorem build32x32WritesTheFrame : Obligations.Build32x32WritesTheFrame := by
  intro s
  have haddr : ¬ 2 ^ FrameClass.c32x32.aw ≤ s.fAddr.toNat := Nat.not_le.mpr s.fAddr.isLt
  exact (exec_buildInstr_eq .c32x32 s).trans (if_neg haddr)

/-- BUILD.k of operands that fit lays their frame into `TXF` and leaves what `F_TID` keeps. -/
theorem exec_buildInstr_of_fits {k : FrameClass} {s : State} (ha : s.fAddr.toNat < 2 ^ k.aw) (hd : s.fData.toNat < 2 ^ k.dw) :
    ∃ t, exec (buildInstr k) s = .next t ∧ t.mem = Memory.writeBytes s.mem txfBase (builtBytes k s.toBlock) ∧
      ∀ v, Keeps .fTid v s.toBlock → Keeps .fTid v t.toBlock := by
  rw [exec_buildInstr_eq, if_neg (Nat.not_le.mpr ha), if_neg (Nat.not_le.mpr hd)]
  exact ⟨_, rfl, rfl, fun _ hk => hk⟩

/-- A BUILD.k that ends with no cause had operands that fit, and laid their frame into `TXF`. -/
theorem fits_of_exec_buildInstr {k : FrameClass} {s t : State} (h : exec (buildInstr k) s = .next t) (hl : t.lastErr = 0) :
    s.fAddr.toNat < 2 ^ k.aw ∧ s.fData.toNat < 2 ^ k.dw ∧
      t.mem = Memory.writeBytes s.mem txfBase (builtBytes k s.toBlock) := by
  rw [exec_buildInstr_eq] at h
  split_ifs at h with ha hd <;> cases h
  · cases hl
  · cases hl
  · exact ⟨Nat.not_le.mp ha, Nat.not_le.mp hd, rfl⟩

/-- The frame that BUILD.k lays into `TXF`, as a value (30_encoding R93). -/
def builtFrame (k : FrameClass) (b : Block) : Frame := frameOfBytes (builtBytes k b)

@[simp] theorem frameBytes_builtFrame (k : FrameClass) (b : Block) : frameBytes (builtFrame k b) = builtBytes k b :=
  frameBytes_frameOfBytes (builtBytes_length k b)

/-- Byte i of a frame (30_encoding R93). -/
theorem frameBytes_getElem? (f : Frame) {i : Nat} (h : i < 16) : (frameBytes f)[i]? = some (f.extractLsb' (8 * i) 8) := by
  have hbytes : frameBytes f = (List.range 16).map (fun i => f.extractLsb' (8 * i) 8) := leBytes_toNat 16 f
  simp [hbytes, h]

theorem magic_builtFrame (k : FrameClass) (b : Block) : (builtFrame k b).extractLsb' 0 8 = magicOf k :=
  magic_frameOfBytes (Nat.succ.inj (builtBytes_length k b))

/-- A field of a frame whose bytes are those of a value that fits is that value. -/
theorem field_of_bytes {f : Frame} {j n v : Nat} (hbytes : ((frameBytes f).drop j).take n = leBytes n v) (hn : j + n ≤ 16)
    (hv : v < 2 ^ (8 * n)) : (f.extractLsb' (8 * j) (8 * n)).toNat = v := by
  rw [← leValue_frameBytes_part f hn, hbytes, leValue_leBytes_of_lt (by simpa [pow_mul] using hv)]

/-- PARSE's fields undo BUILD's layout (R138): a field is read back from its own bytes. -/
theorem fieldsOf_builtFrame {k : FrameClass} {b : Block} (ha : b.fAddr.toNat < 2 ^ k.aw) (hd : b.fData.toNat < 2 ^ k.dw) :
    fieldsOf k (builtFrame k b) = ⟨b.fTid, b.fFlags, b.fAddr.toNat, b.fData.toNat⟩ := by
  have hna : k.aw = 8 * k.na := by cases k <;> rfl
  have hnd : k.dw = 8 * k.nd := by cases k <;> rfl
  have hfits : 4 + k.na + k.nd ≤ 16 := by cases k <;> decide
  have htid := frameBytes_getElem? (builtFrame k b) (i := 1) (by decide)
  have hflags := frameBytes_getElem? (builtFrame k b) (i := 2) (by decide)
  rw [frameBytes_builtFrame] at htid hflags
  have haddr : ((frameBytes (builtFrame k b)).drop 4).take k.na = leBytes k.na b.fAddr.toNat := by
    simp [builtBytes, leBytes_toNat]
  have hdata : ((frameBytes (builtFrame k b)).drop (4 + k.na)).take k.nd = leBytes k.nd b.fData.toNat := by
    rw [← List.drop_drop]
    simp [builtBytes, leBytes_toNat]
  rw [fieldsOf, Parsed.mk.injEq]
  refine ⟨(Option.some.inj htid).symm, (Option.some.inj hflags).symm, ?_, ?_⟩
  · rw [hna] at ha ⊢
    exact field_of_bytes haddr (by omega) ha
  · rw [hna, hnd, show 32 + 8 * k.na = 8 * (4 + k.na) by omega]
    rw [hnd] at hd
    exact field_of_bytes hdata hfits hd

end Sys2Proof.Machine
end

section
/-! PROOF. The frame round trip (40_frame_build R138): `loopback` copies `TXF` into `RXF` byte by byte (30_encoding R111), and PARSE.k
finds there the fields that BUILD.k laid down. Between two operations `F_TID` `Keeps` its value. -/

namespace Sys2Proof.Machine

theorem Keeps.storeBytes {r : Reg} {w : BitVec 64} {b : Block} (h : Keeps r w b) (a : Nat) (bs : List Byte) :
    Keeps r w (storeBytes a bs b) :=
  ⟨h.1, (readReg_storeBytes r a bs b).trans h.2⟩

/-- A `ldb` of a written byte hands it out and leaves buffer space and what a register keeps (44_system R223). -/
theorem turn_ldb {a : Nat} {v : Byte} {s : State} (ha : a < bufSize) (h : Memory.read s.mem a = some v) :
    ∃ t, turn (.ldb a) s = .next t ∧ t.seen = .hostReceived (v.setWidth 64) :: s.seen ∧ t.mem = s.mem ∧
      ∀ r w, Keeps r w s.toBlock → Keeps r w t.toBlock := by
  have hfetch : fetchByte (refreshed s).mem a = .ok v := fetchByte_of_read (by simpa using h)
  have hresp : respond Config.std (.ldb a) (refreshed s).toBlock =
      .handed (.hostReceived (v.setWidth 64)) (refreshed s).toBlock := by
    simp only [respond, hostLoad, if_neg (Nat.not_le.mpr ha), hfetch, map_ok, handOut]
  exact ⟨_, act_of_handed hresp, rfl, refreshed_mem s, fun _ _ hk => hk.refreshed⟩

/-- A `stb` inside buffer space stores that byte and leaves what a register keeps (44_system R225). -/
theorem turn_stb {a : Nat} (v : Byte) (s : State) (ha : a < bufSize) :
    ∃ t, turn (.stb a v.toNat) s = .next t ∧ t.mem = Memory.write s.mem a v ∧
      ∀ r w, Keeps r w s.toBlock → Keeps r w t.toBlock := by
  have hgood : ¬ (bufSize ≤ a ∨ 256 ≤ v.toNat) := not_or.mpr ⟨Nat.not_le.mpr ha, Nat.not_le.mpr v.isLt⟩
  have hresp : respond Config.std (.stb a v.toNat) (refreshed s).toBlock = .done (storeBytes a [v] (refreshed s).toBlock) := by
    simp only [respond, hostStore, if_neg hgood, BitVec.ofNat_toNat, BitVec.setWidth_eq]
  exact ⟨_, act_of_done hresp, congrArg (Memory.write · a v) (refreshed_mem s), fun _ _ hk => hk.refreshed.storeBytes a [v]⟩

/-- One `ldb` and one `stb` of `loopback` copy byte i of `TXF` to byte i of `RXF`. -/
theorem loopbackFrom_succ {i : Nat} {v : Byte} {s : State} (n : Nat) (hi : i < 16) (h : Memory.read s.mem i = some v) :
    ∃ t, loopbackFrom (n + 1) i s = loopbackFrom n (i + 1) t ∧ t.mem = Memory.write s.mem (rxfBase + i) v ∧
      ∀ r w, Keeps r w s.toBlock → Keeps r w t.toBlock := by
  have hwide : (v.setWidth 64).toNat = v.toNat := BitVec.toNat_setWidth_of_le (by decide)
  obtain ⟨s1, hload, hseen, hmem1, hkeep1⟩ := turn_ldb (hi.trans (by decide)) h
  obtain ⟨s2, hstore, hmem2, hkeep2⟩ := turn_stb v s1 (a := rxfBase + i) (by simp only [rxfBase, bufSize]; omega)
  refine ⟨s2, ?_, hmem1 ▸ hmem2, fun r w hk => hkeep2 r w (hkeep1 r w hk)⟩
  simp only [loopbackFrom, txfBase, Nat.zero_add, hload, andThen, hseen, hwide, hstore]

/-- The rest of `loopback` from byte i on copies the bytes that are left: the stores into `RXF` meet none of them. -/
theorem loopbackFrom_copies {bs : List Byte} {i : Nat} {s : State} (hi : i + bs.length ≤ 16)
    (h : ∀ j, j < bs.length → Memory.read s.mem (i + j) = bs[j]?) :
    ∃ t, loopbackFrom bs.length i s = .next t ∧ t.mem = Memory.writeBytes s.mem (rxfBase + i) bs ∧
      ∀ r w, Keeps r w s.toBlock → Keeps r w t.toBlock := by
  induction bs generalizing i s with
  | nil => exact ⟨s, rfl, rfl, fun _ _ hk => hk⟩
  | cons v bs ih =>
    rw [List.length_cons] at hi h
    have hfirst : Memory.read s.mem i = some v := by simpa using h 0 (by omega)
    obtain ⟨s1, hstep, hmem1, hkeep1⟩ := loopbackFrom_succ bs.length (by omega) hfirst
    have hrest : ∀ j, j < bs.length → Memory.read s1.mem (i + 1 + j) = bs[j]? := by
      intro j hj
      have hout : i + (j + 1) ≠ rxfBase + i := by simp only [rxfBase]; omega
      rw [hmem1, Nat.add_right_comm, Nat.add_assoc, Memory.read_write_other _ _ hout, h (j + 1) (by omega),
        List.getElem?_cons_succ]
    obtain ⟨t, hloop, hmem, hkeep⟩ := ih (by omega) hrest
    exact ⟨t, hstep.trans hloop, hmem.trans (by rw [hmem1]; rfl), fun r w hk => hkeep r w (hkeep1 r w hk)⟩

/-- `loopback` after a store of sixteen bytes into `TXF` lays the same bytes into `RXF` (30_encoding R111). -/
theorem loopback_copies {bs : List Byte} {m : Memory} {s : State} (hlen : bs.length = 16)
    (hmem : s.mem = Memory.writeBytes m txfBase bs) :
    ∃ t, loopback s = .next t ∧ t.mem = Memory.writeBytes s.mem rxfBase bs ∧
      ∀ r w, Keeps r w s.toBlock → Keeps r w t.toBlock := by
  have hread : ∀ j, j < bs.length → Memory.read s.mem (0 + j) = bs[j]? :=
    fun j hj => hmem ▸ Memory.read_writeBytes_inside m txfBase bs hj
  rw [loopback, ← hlen]
  exact loopbackFrom_copies (by omega) hread

theorem exec_parseInstr (k : FrameClass) (s : State) : exec (parseInstr k) s = onBlock (parseFrame Config.std k) s := by
  cases k <;> rfl

/-- PARSE.k of a frame that BUILD.k built from block b, for the same target, finds b's operands. -/
theorem exec_parseInstr_built {k : FrameClass} {s : State} {b : Block} {m : Memory} (ha : b.fAddr.toNat < 2 ^ k.aw)
    (hd : b.fData.toNat < 2 ^ k.dw) (hmem : s.mem = Memory.writeBytes m rxfBase (builtBytes k b)) (htid : s.fTid = b.fTid) :
    exec (parseInstr k) s =
      .next (s.mapBlock (fun u => endParse b.fFlags (withParsed ⟨b.fTid, b.fFlags, b.fAddr.toNat, b.fData.toNat⟩ u))) := by
  have hfields := fieldsOf_builtFrame ha hd
  have htarget : s.fTid = (builtFrame k b).extractLsb' 8 8 := htid.trans (congrArg Parsed.tid hfields).symm
  rw [exec_parseInstr, onBlock, parseFrame, hmem, htarget, ← frameBytes_builtFrame,
    parseBytes_delivered m (magic_builtFrame k b), hfields]
  rfl

/-- The success bit is flags bit 1 (10_state R31, R32). -/
theorem successFlag_eq_zero_iff (flags : Byte) : successFlag flags = 0 ↔ flags.getLsbD 1 = false := by
  have hbit : successFlag flags = BitVec.ofBool (flags.getLsbD 1) := by
    apply BitVec.eq_of_getLsbD_eq
    intro i hi
    obtain rfl : i = 0 := by omega
    simp [successFlag]
  rw [hbit]
  cases flags.getLsbD 1 <;> decide

/-- The end of PARSE leaves the result registers as they were written (41_frame_parse R152). -/
theorem endParse_results (flags : Byte) (b : Block) :
    (endParse flags b).pTid = b.pTid ∧ (endParse flags b).pFlags = b.pFlags ∧ (endParse flags b).pAddr = b.pAddr ∧
      (endParse flags b).pData = b.pData ∧ (endParse flags b).pSuccess = b.pSuccess := by
  unfold endParse
  split_ifs <;> exact ⟨rfl, rfl, rfl, rfl, rfl⟩

/-- PARSE ends with no cause when the success bit is set, and records OperationFailed when it is clear (41_frame_parse R152). -/
theorem endParse_lastErr (flags : Byte) (b : Block) :
    (endParse flags b).lastErr = if flags.getLsbD 1 = true then 0 else 3 := by
  simp only [endParse, successFlag_eq_zero_iff]
  cases flags.getLsbD 1 <;> rfl

/-- Settles O43: BUILD.k, `loopback` and PARSE.k in turn; `F_TID` keeps its value from the first to the last. -/
theorem frameRoundTrip : Obligations.FrameRoundTrip := by
  intro k s ha hd htid
  obtain ⟨s1, hbuild, hmem1, hkeep1⟩ := exec_buildInstr_of_fits ha hd
  obtain ⟨s2, hloop, hmem2, hkeep2⟩ := loopback_copies (builtBytes_length k s.toBlock) hmem1
  have hkept : Keeps .fTid (BitVec.ofNat 64 s.fTid.toNat) s2.toBlock := hkeep2 _ _ (hkeep1 _ ⟨htid, by simp [readReg]⟩)
  have htid2 : s2.fTid = s.fTid := by simpa using hkept.fTid_eq
  obtain ⟨htid3, hflags3, haddr3, hdata3, hsuccess3⟩ :=
    endParse_results s.fFlags (withParsed ⟨s.fTid, s.fFlags, s.fAddr.toNat, s.fData.toNat⟩ s2.toBlock)
  exact ⟨_, s2, _, hbuild, hloop, exec_parseInstr_built ha hd hmem2 htid2, htid3, hflags3, haddr3.trans (by simp),
    hdata3.trans (by simp), hsuccess3, endParse_lastErr _ _⟩

end Sys2Proof.Machine
end

section
/-! PROOF. What the storing commands leave (40_frame_build R130, R131, R139; 43_multisynth R196; 60_exceptions R251): their buffer's
bytes and no others, and nothing when they raise; and the sixteen bytes of `TXF` tell class and operands apart. -/

namespace Sys2Proof.Machine

/-- The bytes that change when a command stores at an address or, with a cause, not at all. -/
theorem read_of_stored {m m' : Memory} {a n : Nat} {cause : BitVec 3}
    (h : (cause = 0 ∧ ∃ bs : List Byte, bs.length = n ∧ m' = Memory.writeBytes m a bs) ∨ m' = m) :
    (∀ x, x < a ∨ a + n ≤ x → Memory.read m' x = Memory.read m x) ∧
      (cause ≠ 0 → ∀ x, Memory.read m' x = Memory.read m x) := by
  rcases h with ⟨hcause, bs, rfl, rfl⟩ | rfl
  · exact ⟨fun x hx => Memory.read_writeBytes_outside m a bs hx, fun hne => absurd hcause hne⟩
  · exact ⟨fun _ _ => rfl, fun _ _ => rfl⟩

/-- BUILD.k stores sixteen bytes at `TXF`, or nothing. -/
theorem buildFrame_stored {k : FrameClass} {s t : Block} (h : buildFrame Config.std k s = .next t) :
    (t.lastErr = 0 ∧ ∃ bs : List Byte, bs.length = 16 ∧ t.mem = Memory.writeBytes s.mem txfBase bs) ∨ t.mem = s.mem := by
  rcases buildFrame_next h with ⟨bs, _, hlen, rfl⟩ | ⟨val, rfl⟩
  · exact .inl ⟨rfl, bs, hlen, rfl⟩
  · exact .inr rfl

/-- PACK stores ten bytes at `MSREG`, or nothing. -/
theorem packCommand_stored {s t : Block} (h : packCommand Config.std s = .next t) :
    (t.lastErr = 0 ∧ ∃ bs : List Byte, bs.length = 10 ∧ t.mem = Memory.writeBytes s.mem msregBase bs) ∨ t.mem = s.mem := by
  rcases packCommand_next h with ⟨f, _, rfl⟩ | ⟨val, rfl⟩
  · exact .inl ⟨rfl, _, imageBytes_length Config.std f, rfl⟩
  · exact .inr rfl

/-- Settles O33: the command's frame equation, and where it stored. -/
theorem storingCommandsStoreOnlyTheirBuffer : Obligations.StoringCommandsStoreOnlyTheirBuffer := by
  refine ⟨fun k s t h => ?_, fun s t h => ?_⟩
  · rw [exec_buildInstr] at h
    obtain ⟨b, hb, rfl⟩ := onBlock_next h
    obtain ⟨houtside, hraised⟩ := read_of_stored (buildFrame_stored hb)
    exact ⟨congrArg (fun b => { s with toBlock := b }) (buildFrame_frame hb), fun a ha => houtside a (.inr ha), hraised⟩
  · obtain ⟨b, hb, rfl⟩ := onBlock_next h
    obtain ⟨houtside, hraised⟩ := read_of_stored (packCommand_stored hb)
    exact ⟨congrArg (fun b => { s with toBlock := b }) (packCommand_frame hb), houtside, hraised⟩

/-- No two classes have one magic (30_encoding R92). -/
theorem magicOf_injective : Function.Injective magicOf := fun k k' h =>
  Option.some.inj ((classOfMagic_magicOf k).symm.trans (h ▸ classOfMagic_magicOf k'))

/-- Two stores that leave the same bytes where they stored laid down the same bytes. -/
theorem eq_of_read_writeBytes_eq {m m' : Memory} {a : Nat} {bs bs' : List Byte} (hlen : bs.length = bs'.length)
    (h : ∀ i, i < bs.length →
      Memory.read (Memory.writeBytes m a bs) (a + i) = Memory.read (Memory.writeBytes m' a bs') (a + i)) : bs = bs' := by
  have hfetch := fetchBytes_congr h
  rw [fetchBytes_writeBytes, hlen, fetchBytes_writeBytes] at hfetch
  exact Except.ok.inj hfetch

/-- Settles O34: the magic tells the class, and PARSE's fields of the frame are the operands. -/
theorem differentOperandsBuildDifferentFrames : Obligations.DifferentOperandsBuildDifferentFrames := by
  intro k k' s s' t t' h h' hl hl' htxf
  obtain ⟨ha, hd, hmem⟩ := fits_of_exec_buildInstr h hl
  obtain ⟨ha', hd', hmem'⟩ := fits_of_exec_buildInstr h' hl'
  have hbytes : builtBytes k s.toBlock = builtBytes k' s'.toBlock := by
    refine eq_of_read_writeBytes_eq (m := s.mem) (m' := s'.mem) (a := txfBase) (by simp) fun i hi => ?_
    rw [← hmem, ← hmem', txfBase, Nat.zero_add]
    exact htxf i (by simpa using hi)
  obtain rfl : k = k' := magicOf_injective (List.cons.inj hbytes).1
  have hfields := (fieldsOf_builtFrame ha hd).symm.trans
    ((congrArg (fun bs => fieldsOf k (frameOfBytes bs)) hbytes).trans (fieldsOf_builtFrame ha' hd'))
  obtain ⟨htid, hflags, haddr, hdata⟩ := (Parsed.mk.injEq ..).mp hfields
  exact ⟨rfl, htid, hflags, BitVec.eq_of_toNat_eq haddr, BitVec.eq_of_toNat_eq hdata⟩

end Sys2Proof.Machine
end

section
/-! PROOF. What PARSE.k does not depend on (41_frame_parse R159, R160; 20_memory R68). It computes from the class's bytes and, where the
target is checked, from `F_TID`; what it writes commutes with an update of anything that it does not write (`Commutes`). -/

namespace Sys2Proof.Machine

theorem fetchByte_congr {m m' : Memory} {a : Nat} (h : Memory.read m a = Memory.read m' a) : fetchByte m a = fetchByte m' a := by
  simp only [fetchByte, h]

/-- PARSE.k computes from its class's bytes of `RXF`: the reserved byte and the padding are not among them (R159). -/
theorem parseBytes_congr {cfg : Config} {k : FrameClass} {m m' : Memory} (tid : Byte)
    (h : ∀ i, i < 4 + cfg.na k + cfg.nd k → i ≠ 3 → Memory.read m (rxfBase + i) = Memory.read m' (rxfBase + i)) :
    parseBytes cfg k m tid = parseBytes cfg k m' tid := by
  have h0 : fetchByte m (rxfBase + 0) = fetchByte m' (rxfBase + 0) := fetchByte_congr (h 0 (by omega) (by omega))
  have h1 : fetchByte m (rxfBase + 1) = fetchByte m' (rxfBase + 1) := fetchByte_congr (h 1 (by omega) (by omega))
  have h2 : fetchByte m (rxfBase + 2) = fetchByte m' (rxfBase + 2) := fetchByte_congr (h 2 (by omega) (by omega))
  have haddr : fetchBytes m (rxfBase + 4) (cfg.na k) = fetchBytes m' (rxfBase + 4) (cfg.na k) :=
    fetchBytes_congr fun i hi => by simpa only [Nat.add_assoc] using h (4 + i) (by omega) (by omega)
  have hdata : fetchBytes m (rxfBase + 4 + cfg.na k) (cfg.nd k) = fetchBytes m' (rxfBase + 4 + cfg.na k) (cfg.nd k) :=
    fetchBytes_congr fun i hi => by simpa only [Nat.add_assoc] using h (4 + (cfg.na k + i)) (by omega) (by omega)
  simp only [parseBytes, fetchField, h0, h1, h2, haddr, hdata]

/-- Without the target check the expected target id is not read (R160). -/
theorem parseBytes_of_no_check {cfg : Config} (hc : cfg.checkTarget = false) (k : FrameClass) (m : Memory) (tid tid' : Byte) :
    parseBytes cfg k m tid = parseBytes cfg k m tid' := by
  simp [parseBytes, hc]

/-- An update of the block that commutes with each of PARSE's writes: it concerns nothing that PARSE writes. -/
structure Commutes (g : Block → Block) : Prop where
  recordCause : ∀ c sub val b, recordCause c sub val (g b) = g (recordCause c sub val b)
  endNormally : ∀ b, endNormally (g b) = g (endNormally b)
  withParsed : ∀ p b, withParsed p (g b) = g (withParsed p b)

theorem commutes_mem (m : Memory) : Commutes (fun b => { b with mem := m }) :=
  ⟨fun _ _ _ _ => rfl, fun _ => rfl, fun _ _ => rfl⟩

theorem commutes_fTid (tid : Byte) : Commutes (fun b => { b with fTid := tid }) :=
  ⟨fun _ _ _ _ => rfl, fun _ => rfl, fun _ _ => rfl⟩

section Update
variable {cfg : Config} {k : FrameClass} {g : Block → Block} {b : Block}

theorem Commutes.endParse (hg : Commutes g) (flags : Byte) (b : Block) : endParse flags (g b) = g (endParse flags b) := by
  unfold Machine.endParse
  split_ifs
  · exact hg.recordCause ..
  · exact hg.endNormally b

/-- PARSE.k after an update that changes nothing of what it computes and nothing that it writes: the same, with the update in it. -/
theorem parseFrame_next_of_update {t : Block} (hg : Commutes g)
    (hp : parseBytes cfg k (g b).mem (g b).fTid = parseBytes cfg k b.mem b.fTid) (h : parseFrame cfg k b = .next t) :
    parseFrame cfg k (g b) = .next (g t) := by
  rcases finish_map_next h with ⟨p, hok, rfl⟩ | ⟨c, sub, val, herr, rfl⟩
  · rw [parseFrame, hp, hok, map_ok, finish_ok, hg.withParsed, hg.endParse]
  · rw [parseFrame, hp, herr, map_error, finish_raise, hg.recordCause]

theorem parseFrame_fault_of_update {e : Fault} (hp : parseBytes cfg k (g b).mem (g b).fTid = parseBytes cfg k b.mem b.fTid)
    (h : parseFrame cfg k b = .fault e) : parseFrame cfg k (g b) = .fault e := by
  obtain ⟨a, herr, rfl⟩ := finish_fault h
  rw [parseFrame, hp, map_eq_error herr, map_error, finish_unwritten]

end Update

/-- Settles O41: the two memories give one computation, and to replace memory commutes with all that PARSE writes. -/
theorem parseReadsOnlyTheClassBytes : Obligations.ParseReadsOnlyTheClassBytes := by
  intro k s m hm
  have hp : parseBytes Config.std k m s.fTid = parseBytes Config.std k s.mem s.fTid := parseBytes_congr s.fTid hm
  simp only [exec_parseInstr]
  refine ⟨fun t h => ?_, fun e h => onBlock_of_fault ?_⟩
  · obtain ⟨b, hb, rfl⟩ := onBlock_next h
    have hmem : b.mem = s.mem := by rw [parseFrame_frame hb]
    exact ⟨hmem, onBlock_of_next (parseFrame_next_of_update (commutes_mem m) hp hb)⟩
  · exact parseFrame_fault_of_update (g := fun b => { b with mem := m }) hp (onBlock_fault h)

/-- Without the target check the one cause PARSE.k raises is a wrong magic: `ERRINFO` then holds sub-code 0 (R151, R160). -/
theorem parseFrame_next_of_no_check {cfg : Config} (hc : cfg.checkTarget = false) {k : FrameClass} {s t : Block}
    (h : parseFrame cfg k s = .next t) :
    (∃ flags u, t = endParse flags u) ∨ ∃ val, t = recordCause .protocolError 0 val s := by
  rcases finish_map_next h with ⟨p, _, rfl⟩ | ⟨c, sub, val, herr, rfl⟩
  · exact .inl ⟨_, _, rfl⟩
  · rcases parseBytes_error herr with ⟨b, hb⟩ | ⟨hc', _⟩ | ⟨x, hx, _⟩
    · cases hb
      exact .inr ⟨_, rfl⟩
    · exact absurd hc' (by simp [hc])
    · cases hx

/-- The end of PARSE is no ProtocolError: it records OperationFailed or nothing (R152). -/
theorem endParse_lastErr_ne_two (flags : Byte) (b : Block) : (endParse flags b).lastErr ≠ 2 := by
  rw [endParse_lastErr]
  split_ifs <;> decide

/-- Settles O42: `F_TID` is neither read nor written, and the one ProtocolError left has sub-code 0. -/
theorem withoutTargetCheckParseDoesNotReadFTid : Obligations.WithoutTargetCheckParseDoesNotReadFTid := by
  intro k s t tid h
  refine ⟨parseFrame_next_of_update (commutes_fTid tid) (parseBytes_of_no_check rfl k s.mem tid s.fTid) h, ?_⟩
  rintro ⟨hcause, hsub⟩
  rcases parseFrame_next_of_no_check rfl h with ⟨flags, u, rfl⟩ | ⟨val, rfl⟩
  · exact endParse_lastErr_ne_two flags u hcause
  · rw [recordCause_errInfo, errInfoOf_sub] at hsub
    exact absurd hsub (by decide)

end Sys2Proof.Machine
end

section
/-! PROOF. PARSE.k where the class's bytes of `RXF` have been written (41_frame_parse R151 to R158): one equation for what it answers,
whatever the class and the bytes; each class's rule is that equation with the class's two fields written out byte by byte. -/

namespace Sys2Proof.Machine

/-- The value of n consecutive bytes, the first the least significant (20_memory R62, R64). -/
def bytesValue (f : Nat → Byte) (j n : Nat) : Nat := leValue ((List.range n).map (fun i => f (j + i)))

theorem bytesValue_one (f : Nat → Byte) (j : Nat) : bytesValue f j 1 = (f j).toNat := rfl

theorem bytesValue_succ (f : Nat → Byte) (j n : Nat) : bytesValue f j (n + 1) = (f j).toNat + 256 * bytesValue f (j + 1) n := by
  simp [bytesValue, List.range_succ_eq_map, leValue, Nat.add_assoc, Nat.add_comm 1, Function.comp_def]

/-- One more byte goes below the bytes after it, as `++` writes it. -/
theorem bytesValue_append {w n j : Nat} {f : Nat → Byte} {x : BitVec w} (h : bytesValue f (j + 1) n = x.toNat) :
    bytesValue f j (n + 1) = (x ++ f j).toNat := by
  rw [bytesValue_succ, h, BitVec.toNat_append, ← Nat.shiftLeft_add_eq_or_of_lt (f j).isLt, Nat.shiftLeft_eq]
  omega

theorem bytesValue_two (f : Nat → Byte) (j : Nat) : bytesValue f j 2 = (f (j + 1) ++ f j).toNat :=
  bytesValue_append (bytesValue_one f (j + 1))

theorem bytesValue_four (f : Nat → Byte) (j : Nat) : bytesValue f j 4 = (f (j + 3) ++ f (j + 2) ++ f (j + 1) ++ f j).toNat :=
  bytesValue_append (bytesValue_append (bytesValue_two f (j + 2)))

theorem bytesValue_eight (f : Nat → Byte) (j : Nat) :
    bytesValue f j 8 =
      (f (j + 7) ++ f (j + 6) ++ f (j + 5) ++ f (j + 4) ++ f (j + 3) ++ f (j + 2) ++ f (j + 1) ++ f j).toNat :=
  bytesValue_append (bytesValue_append (bytesValue_append (bytesValue_append (bytesValue_four f (j + 4)))))

/-- A field of the register's own width is that register's value. -/
theorem ofNat_of_toNat_eq {w v : Nat} {x : BitVec w} (h : v = x.toNat) : BitVec.ofNat w v = x := by
  rw [h, BitVec.ofNat_toNat, BitVec.setWidth_eq]

/-- A narrower field is zero-extended (30_encoding R102). -/
theorem ofNat_of_toNat_eq_zext {w u v : Nat} {x : BitVec w} (h : v = x.toNat) : BitVec.ofNat u v = x.setWidth u := by
  rw [h, BitVec.ofNat_toNat]

/-- A frame field whose bytes have been written. -/
theorem fetchField_of_read {m : Memory} {f : Nat → Byte} {a j n : Nat}
    (h : ∀ i, i < n → Memory.read m (a + (j + i)) = some (f (j + i))) :
    fetchField .little m (a + j) n = .ok (bytesValue f j n) := by
  have hfetch := fetchBytes_of_read (m := m) (a := a + j) (bs := (List.range n).map (fun i => f (j + i)))
    (fun i hi => by
      have hin : i < n := by simpa using hi
      simp [Nat.add_assoc, h i hin, hin])
  rw [List.length_map, List.length_range] at hfetch
  rw [fetchField, hfetch]
  rfl

section Written
variable {k : FrameClass} {f : Nat → Byte}

/-- The two tests in their order, and the four fields (R151). -/
theorem parseBytes_of_read {m : Memory} (h : ∀ i, i < 4 + k.na + k.nd → i ≠ 3 → Memory.read m (rxfBase + i) = some (f i))
    (expected : Byte) :
    parseBytes Config.std k m expected =
      if f 0 ≠ magicOf k then .error (.raise .protocolError 0 (f 0))
      else if f 1 ≠ expected then .error (.raise .protocolError 1 (f 1))
      else .ok ⟨f 1, f 2, bytesValue f 4 k.na, bytesValue f (4 + k.na) k.nd⟩ := by
  have h0 : fetchByte m (rxfBase + 0) = .ok (f 0) := fetchByte_of_read (h 0 (by omega) (by omega))
  have h1 : fetchByte m (rxfBase + 1) = .ok (f 1) := fetchByte_of_read (h 1 (by omega) (by omega))
  have h2 : fetchByte m (rxfBase + 2) = .ok (f 2) := fetchByte_of_read (h 2 (by omega) (by omega))
  have haddr : fetchField Config.std.fieldEndian m (rxfBase + 4) (Config.std.na k) = .ok (bytesValue f 4 k.na) :=
    fetchField_of_read fun i hi => h _ (Nat.lt_add_right _ (Nat.add_lt_add_left hi 4)) (by omega)
  have hdata : fetchField Config.std.fieldEndian m (rxfBase + 4 + Config.std.na k) (Config.std.nd k) =
      .ok (bytesValue f (4 + k.na) k.nd) := by
    rw [Nat.add_assoc]
    exact fetchField_of_read fun i hi => h _ (Nat.add_lt_add_left hi _) (by omega)
  have hcheck : Config.std.checkTarget = true := rfl
  simp only [parseBytes, h0, h1, h2, haddr, hdata, hcheck, ok_bind, raiseIf_bind, pure_eq_ok, true_and]
  rfl

/-- The success bit alone decides how PARSE ends (10_state R32; 41_frame_parse R152). -/
theorem endParse_withParsed (p : Parsed) (b : Block) :
    endParse p.flags (withParsed p b) =
      if p.flags.getLsbD 1 = false then recordCause .operationFailed 2 p.flags { withParsed p b with pSuccess := 0 }
      else endNormally { withParsed p b with pSuccess := 1 } := by
  have hbit := successFlag_eq_zero_iff p.flags
  rcases BitVec.eq_zero_or_eq_one (successFlag p.flags) with (hclear : successFlag p.flags = 0) | hset
  · rw [endParse, if_pos hclear, if_pos (hbit.mp hclear), withParsed, hclear]
  · have hne : successFlag p.flags ≠ 0 := hset ▸ (by decide)
    rw [endParse, if_neg hne, if_neg (hne ∘ hbit.mpr), withParsed, hset]
    rfl

/-- PARSE.k as a whole (R151, R152): either test raises and nothing else happens; or the five results are written, `addr` and `data`
being the values of the two fields at the registers' widths, and a clear success bit is recorded. -/
theorem exec_parseInstr_of_read {s : State} {addr : BitVec 32} {data : BitVec 64}
    (h : ∀ i, i < 4 + k.na + k.nd → i ≠ 3 → Memory.read s.mem (0x10 + i) = some (f i))
    (haddr : BitVec.ofNat 32 (bytesValue f 4 k.na) = addr) (hdata : BitVec.ofNat 64 (bytesValue f (4 + k.na) k.nd) = data) :
    exec (parseInstr k) s =
      if f 0 ≠ magicOf k then .next { s with lastErr := 2, errs := s.errs ||| 0x04, errInfo := 0x00#8 ++ f 0 }
      else if f 1 ≠ s.fTid then .next { s with lastErr := 2, errs := s.errs ||| 0x04, errInfo := 0x01#8 ++ f 1 }
      else if (f 2).getLsbD 1 = false then
        .next { s with pTid := f 1, pFlags := f 2, pAddr := addr, pData := data, pSuccess := 0,
                       unset := settle [.pTid, .pFlags, .pAddr, .pData, .pSuccess] s.unset,
                       lastErr := 3, errs := s.errs ||| 0x08, errInfo := 0x02#8 ++ f 2 }
      else
        .next { s with pTid := f 1, pFlags := f 2, pAddr := addr, pData := data, pSuccess := 1,
                       unset := settle [.pTid, .pFlags, .pAddr, .pData, .pSuccess] s.unset, lastErr := 0 } := by
  subst haddr hdata
  rw [exec_parseInstr, onBlock, parseFrame, parseBytes_of_read h]
  split_ifs with hmagic htarget hflag
  · rfl
  · rfl
  · rw [map_ok, endParse_withParsed, if_pos hflag]
    rfl
  · rw [map_ok, endParse_withParsed, if_neg hflag]
    rfl

end Written

/-- Settles O35: `exec_parseInstr_of_read` at the class. -/
theorem parse8x8ReadsTheFrame : Obligations.Parse8x8ReadsTheFrame := fun _ f h =>
  exec_parseInstr_of_read (k := .c8x8) h (ofNat_of_toNat_eq_zext (bytesValue_one f 4)) (ofNat_of_toNat_eq_zext (bytesValue_one f 5))

/-- Settles O36: `exec_parseInstr_of_read` at the class. -/
theorem parse8x16ReadsTheFrame : Obligations.Parse8x16ReadsTheFrame := fun _ f h =>
  exec_parseInstr_of_read (k := .c8x16) h (ofNat_of_toNat_eq_zext (bytesValue_one f 4)) (ofNat_of_toNat_eq_zext (bytesValue_two f 5))

/-- Settles O37: `exec_parseInstr_of_read` at the class. -/
theorem parse8x32ReadsTheFrame : Obligations.Parse8x32ReadsTheFrame := fun _ f h =>
  exec_parseInstr_of_read (k := .c8x32) h (ofNat_of_toNat_eq_zext (bytesValue_one f 4)) (ofNat_of_toNat_eq_zext (bytesValue_four f 5))

/-- Settles O38: `exec_parseInstr_of_read` at the class. -/
theorem parse8x64ReadsTheFrame : Obligations.Parse8x64ReadsTheFrame := fun _ f h =>
  exec_parseInstr_of_read (k := .c8x64) h (ofNat_of_toNat_eq_zext (bytesValue_one f 4)) (ofNat_of_toNat_eq (bytesValue_eight f 5))

/-- Settles O39: `exec_parseInstr_of_read` at the class. -/
theorem parse16x64ReadsTheFrame : Obligations.Parse16x64ReadsTheFrame := fun _ f h =>
  exec_parseInstr_of_read (k := .c16x64) h (ofNat_of_toNat_eq_zext (bytesValue_two f 4)) (ofNat_of_toNat_eq (bytesValue_eight f 6))

/-- Settles O40: `exec_parseInstr_of_read` at the class. -/
theorem parse32x32ReadsTheFrame : Obligations.Parse32x32ReadsTheFrame := fun _ f h =>
  exec_parseInstr_of_read (k := .c32x32) h (ofNat_of_toNat_eq (bytesValue_four f 4)) (ofNat_of_toNat_eq_zext (bytesValue_four f 8))

end Sys2Proof.Machine
end

section
/-! PROOF. The arithmetic of Unit R (42_rational R172 to R178). `reduce` of a rate with a denominator is the rate `reduced`: in lowest
terms, of the same value, and itself when it is in lowest terms already. -/

namespace Sys2Proof.Machine

/-- The second remainder of the loop of R172 is less than half of the first divisor. -/
theorem two_mul_mod_mod_lt {x y : Nat} (hy : y ≠ 0) (hr : x % y ≠ 0) : 2 * (y % (x % y)) < y := by
  have hlt : x % y < y := Nat.mod_lt x (Nat.pos_of_ne_zero hy)
  have hrem : y % (x % y) < x % y := Nat.mod_lt y (Nat.pos_of_ne_zero hr)
  have hsub : y % (x % y) = (y - x % y) % (x % y) := Nat.mod_eq_sub_mod hlt.le
  have hle : (y - x % y) % (x % y) ≤ y - x % y := Nat.mod_le _ _
  omega

/-- Two iterations a bit of the second operand are enough for the loop of R172. -/
theorem euclidLoop_eq_euclidGcd {k y : Nat} (x : Nat) (hy : y < 2 ^ k) : euclidLoop (2 * k) x y = euclidGcd x y := by
  induction k generalizing x y with
  | zero =>
    obtain rfl : y = 0 := by simpa using hy
    exact (Nat.gcd_zero_right x).symm
  | succ k ih =>
    rw [Nat.mul_succ, euclidLoop, euclidGcd_step, euclidLoop, euclidGcd_step y]
    by_cases h0 : y = 0
    · simp only [h0, ne_eq, not_true_eq_false, if_false]
    by_cases hr : x % y = 0
    · simp only [hr, ne_eq, not_true_eq_false, if_false]
    have hhalf : y % (x % y) < 2 ^ k := by
      have hless := two_mul_mod_mod_lt h0 hr
      omega
    rw [ih (x % y) hhalf]

/-- Settles O50: 130 iterations are enough for a second operand of 65 bits. -/
theorem euclideanLoopEndsWithin130Iterations : Obligations.EuclideanLoopEndsWithin130Iterations := fun x _ _ hy =>
  euclidLoop_eq_euclidGcd (k := 65) x (hy.trans (by decide))

/-- The value of a rate, an exact rational number (10_state R28). -/
def Rate.value (x : Rate) : ℚ := x.int + x.num / x.den

/-- A proper fraction in lowest terms (R176). -/
structure Rate.Lowest (x : Rate) : Prop where
  den_pos : 0 < x.den
  num_lt : x.num < x.den
  gcd_eq : Nat.gcd x.num x.den = 1

/-- What `reduce` computes when it does not raise (R174). -/
def Rate.reduced (x : Rate) : Rate :=
  ⟨x.int + x.num / x.den, x.num % x.den / Nat.gcd (x.num % x.den) x.den, x.den / Nat.gcd (x.num % x.den) x.den⟩

/-- What `double` reduces (R175). -/
def Rate.doubled (x : Rate) : Rate := ⟨2 * x.int, 2 * x.num, x.den⟩

theorem Rate.reduced_den_le (x : Rate) : x.reduced.den ≤ x.den := Nat.div_le_self _ _

theorem Rate.lowest_reduced {x : Rate} (h : x.den ≠ 0) : x.reduced.Lowest := by
  have hden : 0 < x.den := Nat.pos_of_ne_zero h
  have hgcd : 0 < Nat.gcd (x.num % x.den) x.den := Nat.gcd_pos_of_pos_right _ hden
  exact ⟨Nat.div_pos (Nat.gcd_le_right _ hden) hgcd,
    Nat.div_lt_div_of_lt_of_dvd (Nat.gcd_dvd_right _ _) (Nat.mod_lt _ hden), Nat.coprime_div_gcd_div_gcd hgcd⟩

/-- The divisions by the gcd are exact, and whole multiples of the denominator move into the integer part (R177). -/
theorem Rate.value_reduced {x : Rate} (h : x.den ≠ 0) : x.reduced.value = x.value := by
  have hden : (x.den : ℚ) ≠ 0 := Nat.cast_ne_zero.mpr h
  have hfrac : ((x.reduced.num : ℚ) / x.reduced.den) = ((x.num % x.den : ℕ) : ℚ) / x.den :=
    Nat.cast_div_div_div_cancel_right (Nat.gcd_dvd_right _ _) (Nat.gcd_dvd_left _ _)
  have hnum : (x.num : ℚ) = x.den * (x.num / x.den : ℕ) + (x.num % x.den : ℕ) := by
    exact_mod_cast (Nat.div_add_mod x.num x.den).symm
  rw [Rate.value, Rate.value, hfrac, hnum, add_div, mul_div_cancel_left₀ _ hden, ← add_assoc, ← Nat.cast_add]
  rfl

theorem Rate.value_doubled (x : Rate) : x.doubled.value = 2 * x.value := by
  simp [Rate.value, Rate.doubled, mul_add, mul_div_assoc]

/-- "An already reduced rate is unchanged" (R174). -/
theorem Rate.Lowest.reduced_eq {x : Rate} (h : x.Lowest) : x.reduced = x := by
  obtain ⟨_, hlt, hgcd⟩ := h
  simp [Rate.reduced, Nat.mod_eq_of_lt hlt, Nat.div_eq_of_lt hlt, hgcd]

theorem reduceRate_of_fits {cfg : Config} {x : Rate} (h : x.den ≠ 0) (hfits : x.reduced.int < 2 ^ cfg.wRate) :
    reduceRate cfg x = .ok x.reduced := by
  rw [reduceRate_eq, if_neg h]
  exact if_neg (Nat.not_le.mpr hfits)

/-- `reduce` answers only a rate with a denominator, and with an integer part that fits. -/
theorem reduceRate_eq_ok {cfg : Config} {x y : Rate} (h : reduceRate cfg x = .ok y) :
    x.den ≠ 0 ∧ y = x.reduced ∧ y.int < 2 ^ cfg.wRate := by
  rw [reduceRate_eq] at h
  split_ifs at h with hden hint
  cases h
  exact ⟨hden, rfl, Nat.not_le.mp hint⟩

theorem doubleRate_eq_ok {cfg : Config} {x y : Rate} (h : doubleRate cfg x = .ok y) : reduceRate cfg x.doubled = .ok y := by
  rw [doubleRate_eq] at h
  split_ifs at h
  exact h

end Sys2Proof.Machine
end

section
/-! PROOF. REDUCE and DOUBLE (42_rational R174 to R177). Both end with a rate that `reduce` answers (`rateEnd`): one equation for that
end gives each command's rule, and its reading backwards what holds of the registers after a command without a cause. -/

namespace Sys2Proof.Machine

/-- The end of a rate command: the rate registers take the computed rate, or the raise is recorded (R174, R175). -/
def rateEnd (r : Except Abort Rate) (s : State) : Host.Outcome State Fault Refusal :=
  onBlock (fun b => finish b (r.map (fun y => endNormally (withRate y b)))) s

theorem exec_reduce (s : State) : exec .reduce s = rateEnd (reduceRate Config.std (rateOf s.toBlock)) s := rfl

theorem exec_double (s : State) : exec .double s = rateEnd (doubleRate Config.std (rateOf s.toBlock)) s := rfl

theorem wRate_std : Config.std.wRate = 64 := rfl

/-- `reduce` of a rate into the registers, as a whole (R174). -/
theorem rateEnd_reduceRate (x : Rate) (s : State) :
    rateEnd (reduceRate Config.std x) s =
      if x.den = 0 then .next { s with lastErr := 6, errs := s.errs ||| 0x40, errInfo := 0x0300 }
      else if 2 ^ 64 ≤ x.int + x.num / x.den then .next { s with lastErr := 4, errs := s.errs ||| 0x10, errInfo := 0x0201 }
      else .next { s with
        rInt := BitVec.ofNat 64 (x.int + x.num / x.den),
        rNum := BitVec.ofNat 64 (x.num % x.den / Nat.gcd (x.num % x.den) x.den),
        rDen := BitVec.ofNat 64 (x.den / Nat.gcd (x.num % x.den) x.den),
        unset := settle [.rInt, .rNum, .rDen] s.unset, lastErr := 0 } := by
  rw [reduceRate_eq, wRate_std]
  split_ifs <;> rfl

/-- The test of the denominator register is the test of its value. -/
theorem rDen_eq_zero_iff (s : State) : s.rDen = 0 ↔ s.rDen.toNat = 0 := BitVec.toNat_inj.symm

/-- Settles O46: `rateEnd_reduceRate` at the rate in the registers. -/
theorem reduceResult : Obligations.ReduceResult := by
  intro s
  simp only [rDen_eq_zero_iff]
  exact rateEnd_reduceRate (rateOf s.toBlock) s

/-- `double` of a rate into the registers, as a whole (R175): the denominator that `reduce` tests again is tested already. -/
theorem rateEnd_doubleRate (x : Rate) (s : State) :
    rateEnd (doubleRate Config.std x) s =
      if x.den = 0 then .next { s with lastErr := 6, errs := s.errs ||| 0x40, errInfo := 0x0300 }
      else if 2 ^ 64 ≤ 2 * x.int then .next { s with lastErr := 4, errs := s.errs ||| 0x10, errInfo := 0x0202 }
      else if 2 ^ 64 ≤ 2 * x.num then .next { s with lastErr := 4, errs := s.errs ||| 0x10, errInfo := 0x0203 }
      else if 2 ^ 64 ≤ 2 * x.int + 2 * x.num / x.den then
        .next { s with lastErr := 4, errs := s.errs ||| 0x10, errInfo := 0x0201 }
      else .next { s with
        rInt := BitVec.ofNat 64 (2 * x.int + 2 * x.num / x.den),
        rNum := BitVec.ofNat 64 (2 * x.num % x.den / Nat.gcd (2 * x.num % x.den) x.den),
        rDen := BitVec.ofNat 64 (x.den / Nat.gcd (2 * x.num % x.den) x.den),
        unset := settle [.rInt, .rNum, .rDen] s.unset, lastErr := 0 } := by
  rw [doubleRate_eq, wRate_std]
  split_ifs with hden hint hnum hsum
  · rfl
  · rfl
  · rfl
  · exact (rateEnd_reduceRate x.doubled s).trans ((if_neg hden).trans (if_pos hsum))
  · exact (rateEnd_reduceRate x.doubled s).trans ((if_neg hden).trans (if_neg hsum))

/-- Settles O47: `rateEnd_doubleRate` at the rate in the registers. -/
theorem doubleResult : Obligations.DoubleResult := by
  intro s
  simp only [rDen_eq_zero_iff]
  exact rateEnd_doubleRate (rateOf s.toBlock) s

/-- A rate command without a cause has computed a rate, and the registers hold it. -/
theorem rateEnd_without_cause {r : Except Abort Rate} {s t : State} (h : rateEnd r s = .next t) (hl : t.lastErr = 0) :
    ∃ y, r = .ok y ∧ t = s.mapBlock (fun b => endNormally (withRate y b)) := by
  obtain ⟨b, hb, rfl⟩ := onBlock_next h
  rcases finish_map_next hb with ⟨y, hy, rfl⟩ | ⟨c, sub, val, _, rfl⟩
  · exact ⟨y, hy, rfl⟩
  · exact absurd hl (causeCode_ne_zero c)

/-- The rate registers give back a rate that fits them. -/
theorem rateOf_withRate {y : Rate} (hint : y.int < 2 ^ 64) (hnum : y.num < 2 ^ 64) (hden : y.den < 2 ^ 64) (b : Block) :
    rateOf (withRate y b) = y := by
  simp only [rateOf, withRate_rInt, withRate_rNum, withRate_rDen, rateBits, BitVec.toNat_ofNat, Nat.mod_eq_of_lt hint,
    Nat.mod_eq_of_lt hnum, Nat.mod_eq_of_lt hden]

/-- The registers after a rate command without a cause hold `x.reduced`, exactly, where x is a rate with a denominator that fits. -/
theorem rateEnd_reduceRate_without_cause {x : Rate} {s t : State} (hx : x.den < 2 ^ 64)
    (h : rateEnd (reduceRate Config.std x) s = .next t) (hl : t.lastErr = 0) :
    x.den ≠ 0 ∧ rateOf t.toBlock = x.reduced ∧ t = s.mapBlock (fun b => endNormally (withRate (rateOf t.toBlock) b)) := by
  obtain ⟨y, hy, rfl⟩ := rateEnd_without_cause h hl
  obtain ⟨hden, rfl, hint⟩ := reduceRate_eq_ok hy
  have hfits : x.reduced.den < 2 ^ 64 := x.reduced_den_le.trans_lt hx
  have hrate : rateOf (withRate x.reduced s.toBlock) = x.reduced :=
    rateOf_withRate hint ((Rate.lowest_reduced hden).num_lt.trans hfits) hfits s.toBlock
  exact ⟨hden, hrate, congrArg (fun y => s.mapBlock (fun b => endNormally (withRate y b))) hrate.symm⟩

/-- DOUBLE without a cause ends as REDUCE of the doubled rate would (R175). -/
theorem rateEnd_reduceRate_of_double {s t : State} (h : exec .double s = .next t) (hl : t.lastErr = 0) :
    rateEnd (reduceRate Config.std (rateOf s.toBlock).doubled) s = .next t := by
  rw [exec_double] at h
  obtain ⟨y, hy, _⟩ := rateEnd_without_cause h hl
  rw [doubleRate_eq_ok hy, ← hy, h]

/-- To write a rate into the registers a second time changes nothing. -/
theorem withRate_again (y : Rate) (b : Block) :
    endNormally (withRate y (endNormally (withRate y b))) = endNormally (withRate y b) := by
  simp [endNormally, withRate, settle]

/-- REDUCE in a state that a rate command left with a rate in lowest terms answers that state (R176). -/
theorem exec_reduce_of_lowest {s t : State} (hlow : (rateOf t.toBlock).Lowest)
    (ht : t = s.mapBlock (fun b => endNormally (withRate (rateOf t.toBlock) b))) : exec .reduce t = .next t := by
  have hint : (rateOf t.toBlock).reduced.int < 2 ^ 64 := hlow.reduced_eq.symm ▸ t.rInt.isLt
  have hsame : endNormally (withRate (rateOf t.toBlock) t.toBlock) = t.toBlock := by
    have hblock := congrArg State.toBlock ht
    rw [mapBlock_toBlock] at hblock
    have hagain := withRate_again (rateOf t.toBlock) s.toBlock
    rwa [← hblock] at hagain
  rw [exec_reduce, reduceRate_of_fits hlow.den_pos.ne' hint, hlow.reduced_eq]
  exact congrArg (fun b => Host.Outcome.next { t with toBlock := b }) hsame

/-- A fraction in lowest terms with numerator 0 has denominator 1 (R176). -/
theorem Rate.Lowest.den_eq_one {x : Rate} (h : x.Lowest) (hzero : x.num = 0) : x.den = 1 := by
  have hgcd := h.gcd_eq
  rwa [hzero, Nat.gcd_zero_left] at hgcd

/-- Settles O48: either command reduces a rate, the one in the registers or its double. -/
theorem reducedRateIsInLowestTerms : Obligations.ReducedRateIsInLowestTerms := by
  intro i s t hi h hl
  obtain ⟨x, hx, hend⟩ : ∃ x : Rate, x.den < 2 ^ 64 ∧ rateEnd (reduceRate Config.std x) s = .next t := by
    rcases hi with rfl | rfl
    · exact ⟨rateOf s.toBlock, s.rDen.isLt, h⟩
    · exact ⟨(rateOf s.toBlock).doubled, s.rDen.isLt, rateEnd_reduceRate_of_double h hl⟩
  obtain ⟨hden, hrate, ht⟩ := rateEnd_reduceRate_without_cause hx hend hl
  have hlow : (rateOf t.toBlock).Lowest := hrate ▸ Rate.lowest_reduced hden
  exact ⟨hlow.den_pos, hlow.num_lt, hlow.gcd_eq,
    fun hzero => BitVec.eq_of_toNat_eq (hlow.den_eq_one (congrArg BitVec.toNat hzero)), exec_reduce_of_lowest hlow ht⟩

/-- `reduce` of a rate into the registers keeps its value, and neither denominator is 0 (R177). -/
theorem rateEnd_reduceRate_keeps_value {x : Rate} {s t : State} (hx : x.den < 2 ^ 64)
    (h : rateEnd (reduceRate Config.std x) s = .next t) (hl : t.lastErr = 0) :
    x.den ≠ 0 ∧ t.rDen ≠ 0 ∧ (rateOf t.toBlock).value = x.value := by
  obtain ⟨hden, hrate, _⟩ := rateEnd_reduceRate_without_cause hx h hl
  have hlow : (rateOf t.toBlock).Lowest := hrate ▸ Rate.lowest_reduced hden
  exact ⟨hden, (rDen_eq_zero_iff t).not.mpr hlow.den_pos.ne', hrate ▸ Rate.value_reduced hden⟩

/-- Settles O49: `reduce` keeps the value, of the rate in the registers or of its double. -/
theorem reduceKeepsAndDoubleDoublesTheValue : Obligations.ReduceKeepsAndDoubleDoublesTheValue := by
  refine ⟨fun s t h hl => ?_, fun s t h hl => ?_⟩
  · obtain ⟨hs, ht, hvalue⟩ := rateEnd_reduceRate_keeps_value (x := rateOf s.toBlock) s.rDen.isLt h hl
    exact ⟨(rDen_eq_zero_iff s).not.mpr hs, ht, hvalue⟩
  · obtain ⟨hs, ht, hvalue⟩ :=
      rateEnd_reduceRate_keeps_value (x := (rateOf s.toBlock).doubled) s.rDen.isLt (rateEnd_reduceRate_of_double h hl) hl
    exact ⟨(rDen_eq_zero_iff s).not.mpr hs, ht, hvalue.trans (Rate.value_doubled _)⟩

end Sys2Proof.Machine
end

section
/-! PROOF. MSADDR and RENC (43_multisynth R205, R207), and the end that they share with CALCMS, PACK and UNPACK (`endWith`): each
computes a value and writes it, or records what its computation raised. An equation for the computation is the command's rule. -/

namespace Sys2Proof.Machine

/-- The end of a command that computes a value and then writes it: the block with the value written and no cause, or the raise recorded
(60_exceptions R251). -/
def endWith {α : Type} (write : α → Block → Block) (r : Except Abort α) (s : State) : Host.Outcome State Fault Refusal :=
  onBlock (fun b => finish b (r.map (fun a => endNormally (write a b)))) s

theorem endWith_ok {α : Type} (write : α → Block → Block) (a : α) (s : State) :
    endWith write (.ok a) s = .next (s.mapBlock (fun b => endNormally (write a b))) := rfl

/-- A command of this form ends without a cause only when it has computed a value. -/
theorem endWith_without_cause {α : Type} {write : α → Block → Block} {r : Except Abort α} {s t : State}
    (h : endWith write r s = .next t) (hl : t.lastErr = 0) :
    ∃ a, r = .ok a ∧ t = s.mapBlock (fun b => endNormally (write a b)) := by
  obtain ⟨b, hb, rfl⟩ := onBlock_next h
  rcases finish_map_next hb with ⟨a, ha, rfl⟩ | ⟨c, sub, val, _, rfl⟩
  · exact ⟨a, ha, rfl⟩
  · exact absurd hl (causeCode_ne_zero c)

/-- A command of this form ends with a cause only when its computation raised it. -/
theorem endWith_with_cause {α : Type} {write : α → Block → Block} {r : Except Abort α} {s t : State}
    (h : endWith write r s = .next t) (hl : t.lastErr ≠ 0) :
    ∃ c sub val, r = .error (.raise c sub val) ∧ t = s.mapBlock (recordCause c sub val) := by
  obtain ⟨b, hb, rfl⟩ := onBlock_next h
  rcases finish_map_next hb with ⟨a, _, rfl⟩ | ⟨c, sub, val, hr, rfl⟩
  · exact absurd rfl hl
  · exact ⟨c, sub, val, hr, rfl⟩

/-- A command that ends like this in the block it starts from. -/
theorem onBlock_eq_endWith {α : Type} {command : Block → Host.Outcome Block Fault Refusal} {write : α → Block → Block}
    {r : Except Abort α} {s : State}
    (h : command s.toBlock = finish s.toBlock (r.map (fun a => endNormally (write a s.toBlock)))) :
    onBlock command s = endWith write r s := by
  simp only [endWith, onBlock, h]

theorem exec_msaddr (s : State) : exec .msaddr s = endWith withBase (baseAddress Config.std s.msIdx) s := rfl

theorem exec_renc (s : State) : exec .renc s = endWith withRreg (dividerByte Config.std s.msR) s := rfl

/-- Settles O59: `baseAddress_eq` at the numbers of this block. -/
theorem msaddrResult : Obligations.MsaddrResult := by
  intro s
  rw [exec_msaddr, baseAddress_eq]
  show endWith _ (if 4 ≤ s.msIdx.toNat then _ else _) s = _
  split_ifs <;> rfl

/-- The encoded byte of each legal divider (R207). -/
theorem dividerByte_std (r : BitVec 8) :
    dividerByte Config.std r =
      if r = 1 then .ok 0xC0 else if r = 2 then .ok 0xC4 else if r = 4 then .ok 0xC8
      else if r = 8 then .ok 0xCC else if r = 16 then .ok 0xD0 else if r = 32 then .ok 0xD4
      else .error (.raise .invalidState 7 r) := by
  have hlegal : legalDividers Config.std = [1, 2, 4, 8, 16, 32] := by decide
  split_ifs with h1 h2 h4 h8 h16 h32
  · rw [h1]; rfl
  · rw [h2]; rfl
  · rw [h4]; rfl
  · rw [h8]; rfl
  · rw [h16]; rfl
  · rw [h32]; rfl
  · rw [dividerByte_eq, hlegal, if_pos]
    simp only [List.mem_cons, List.not_mem_nil, or_false, not_or]
    bv_omega

/-- Settles O60: `dividerByte_std`, written. -/
theorem rencResult : Obligations.RencResult := by
  intro s
  rw [exec_renc, dividerByte_std]
  split_ifs <;> rfl

end Sys2Proof.Machine
end

section
/-! PROOF. PACK and UNPACK (43_multisynth R194 to R201): the fields and the image of a divider, and the way back. -/

namespace Sys2Proof.Machine

/-- What PACK writes: the field registers and the image. -/
def storeFields (f : Fields) (b : Block) : Block := storeBytes msregBase (imageBytes Config.std f) (withFields f b)

theorem exec_pack (s : State) :
    exec .pack s = endWith storeFields (packFields Config.std s.msA.toNat s.msB.toNat s.msC.toNat) s :=
  onBlock_eq_endWith (command := packCommand Config.std) rfl

/-- What UNPACK computes: the fields of the image, and the parameters they stand for (R200). -/
def unpackImage (m : Memory) : Except Abort (Fields × Nat × Nat × Nat) :=
  fetchImage Config.std m >>= fun f => (unpackFields f).map fun abc => (f, abc)

/-- What UNPACK writes: the field registers and the parameters. -/
def withUnpacked (r : Fields × Nat × Nat × Nat) (b : Block) : Block := withDivider r.2 (withFields r.1 b)

theorem unpackCommand_eq (b : Block) :
    unpackCommand Config.std b = finish b ((unpackImage b.mem).map fun r => endNormally (withUnpacked r b)) := by
  unfold unpackCommand unpackImage
  cases fetchImage Config.std b.mem with
  | error e => rfl
  | ok f =>
    simp only [ok_bind]
    cases unpackFields f <;> rfl

theorem exec_unpack (s : State) : exec .unpack s = endWith withUnpacked (unpackImage s.mem) s :=
  onBlock_eq_endWith (unpackCommand_eq s.toBlock)

/-- A slice inside both widths does not depend on the width a number is held in. -/
theorem extractLsb'_ofNat_of_le {v w start len : Nat} (n : Nat) (hv : start + len ≤ v) (hw : start + len ≤ w) :
    (BitVec.ofNat v n).extractLsb' start len = (BitVec.ofNat w n).extractLsb' start len := by
  apply BitVec.eq_of_getLsbD_eq
  intro i hi
  have hiv : start + i < v := by omega
  have hiw : start + i < w := by omega
  simp only [BitVec.getLsbD_extractLsb', BitVec.getLsbD_ofNat, hiv, hiw]

/-- The top byte of the image: a 30-bit number's bits from 24 on, with two zero bits above (R195). -/
theorem zero_append_extractLsb'_of_lt {n : Nat} (h : n < 2 ^ 30) :
    0#2 ++ (BitVec.ofNat 30 n).extractLsb' 24 6 = (BitVec.ofNat 32 n).extractLsb' 24 8 := by
  apply BitVec.eq_of_toNat_eq
  simp only [BitVec.toNat_append, BitVec.extractLsb'_toNat, BitVec.toNat_ofNat, Nat.shiftRight_eq_div_pow, Nat.zero_shiftLeft,
    Nat.zero_or, Nat.zero_mod]
  omega

/-- The ten bytes by the 32-bit field registers (R196). -/
theorem imageBytes_registers {n1 n2 n3 : Nat} (h : n3 < 2 ^ 30) {p1 p2 p3 : BitVec 32} (h1 : p1 = BitVec.ofNat 32 n1)
    (h2 : p2 = BitVec.ofNat 32 n2) (h3 : p3 = BitVec.ofNat 32 n3) :
    imageBytes Config.std ⟨n1, n2, n3⟩ =
      [p1.extractLsb' 0 8, p1.extractLsb' 8 8, p2.extractLsb' 0 6 ++ p1.extractLsb' 16 2, p2.extractLsb' 6 8,
       p2.extractLsb' 14 8, p2.extractLsb' 22 8, p3.extractLsb' 0 8, p3.extractLsb' 8 8, p3.extractLsb' 16 8,
       p3.extractLsb' 24 8] := by
  subst h1 h2 h3
  rw [imageBytes_std, zero_append_extractLsb'_of_lt h]
  simp only [extractLsb'_ofNat_of_le (v := 18) (w := 32), extractLsb'_ofNat_of_le (v := 30) (w := 32), Nat.reduceAdd,
    Nat.reduceLeDiff]

/-- PACK's results, register by register (R196). -/
theorem endWith_storeFields (f : Fields) (s : State) :
    endWith storeFields (.ok f) s = .next { s with
      msP1 := BitVec.ofNat 32 f.p1, msP2 := BitVec.ofNat 32 f.p2, msP3 := BitVec.ofNat 32 f.p3,
      unset := settle [.msP1, .msP2, .msP3] s.unset, lastErr := 0,
      mem := Memory.writeBytes s.mem msregBase (imageBytes Config.std f) } := rfl

/-- R196 at the numbers of this block. -/
theorem packFields_std (a b c : Nat) :
    packFields Config.std a b c =
      if a < 8 ∨ 567 < a then .error (.raise .invalidState 4 0)
      else if c = 0 ∨ 2 ^ 30 ≤ c then .error (.raise .invalidState 4 1)
      else if c ≤ b then .error (.raise .invalidState 4 2)
      else .ok ⟨128 * a + 128 * b / c - 512, 128 * b - 128 * b / c * c, c⟩ := packFields_eq Config.std a b c

/-- Settles O55: `packFields_std` at the numbers of this block, written. -/
theorem packResult : Obligations.PackResult := by
  rintro s q p1 p2 p3 rfl h1 h2 h3
  have hc : s.msC = 0 ↔ s.msC.toNat = 0 := BitVec.toNat_inj.symm
  rw [exec_pack, packFields_std]
  simp only [hc]
  split_ifs with ha hc hb
  · rfl
  · rfl
  · rfl
  · have hp3 : p3 = BitVec.ofNat 32 s.msC.toNat := by rw [h3, ofNat_of_toNat_eq rfl]
    rw [endWith_storeFields, imageBytes_registers (by omega) h1 h2 hp3, h1, h2, hp3]

/-- What the three tests of PACK leave, and the fields it then computes (R196). -/
theorem packFields_eq_ok {a b c : Nat} {f : Fields} (h : packFields Config.std a b c = .ok f) :
    8 ≤ a ∧ a ≤ 567 ∧ b < c ∧ c < 2 ^ 30 ∧ f = ⟨128 * a + 128 * b / c - 512, 128 * b - 128 * b / c * c, c⟩ := by
  rw [packFields_std] at h
  split_ifs at h
  exact ⟨by omega, by omega, by omega, by omega, (Except.ok.inj h).symm⟩

/-- PACK computes fields in its domain (R196). -/
theorem packFields_of_domain {a b c : Nat} (ha : 8 ≤ a) (ha' : a ≤ 567) (hc : c < 2 ^ 30) (hb : b < c) :
    packFields Config.std a b c = .ok ⟨128 * a + 128 * b / c - 512, 128 * b - 128 * b / c * c, c⟩ := by
  rw [packFields_std, if_neg (by omega), if_neg (by omega), if_neg (by omega)]

/-- "`0 ≤ q ≤ 127`" (R194): a proper fraction times 128 is below 128. -/
theorem packed_quotient_lt {b c : Nat} (h : b < c) : 128 * b / c < 128 :=
  Nat.div_lt_of_lt_mul (by omega)

/-- The remainder that is `p2`, and how it gives back 128b (R194). -/
theorem packed_remainder {b c : Nat} (h : b < c) :
    128 * b - 128 * b / c * c = 128 * b % c ∧ 128 * b % c < c ∧ 128 * b / c * c + 128 * b % c = 128 * b := by
  have hdiv := Nat.div_add_mod' (128 * b) c
  exact ⟨by omega, Nat.mod_lt _ (by omega), hdiv⟩

/-- The formulas and the bounds of R194, of the fields that PACK computes. -/
theorem packFields_formulas {a b c : Nat} {f : Fields} (h : packFields Config.std a b c = .ok f) :
    f.p1 + 512 = 128 * (a * c + b) / c ∧ f.p2 = 128 * b % c ∧ f.p3 = c ∧ f.p2 + 128 * b / c * c = 128 * b ∧
      f.p1 + 512 = 128 * a + 128 * b / c ∧ 128 * b / c ≤ 127 ∧ 512 ≤ f.p1 ∧ f.p1 ≤ 72191 ∧ f.p2 < c ∧
      128 * (a * c + b) < 2 ^ 47 ∧ c < 2 ^ 30 := by
  obtain ⟨ha, ha', hb, hc, rfl⟩ := packFields_eq_ok h
  have hq := packed_quotient_lt hb
  obtain ⟨hsub, hmod, hdiv⟩ := packed_remainder hb
  have hfloor : 128 * (a * c + b) / c = 128 * b / c + 128 * a := by
    rw [Nat.mul_add, ← Nat.mul_assoc, Nat.add_comm, Nat.add_mul_div_right _ _ (by omega)]
  have hlarge : a * c + b < 568 * 2 ^ 30 := by nlinarith
  rw [hfloor]
  dsimp only
  rw [hsub]
  generalize 128 * b / c = q at *
  refine ⟨?_, rfl, rfl, ?_, ?_, ?_, ?_, ?_, hmod, ?_, hc⟩ <;> omega

/-- Settles O56: the registers hold the computed fields, which fit. -/
theorem packedFieldsAreTheFormulas : Obligations.PackedFieldsAreTheFormulas := by
  intro s t h hl
  rw [exec_pack] at h
  obtain ⟨f, hf, rfl⟩ := endWith_without_cause h hl
  obtain ⟨hfloor, hmod, h3, hrem, hp1, hq, hmin, hmax, hlt, hlarge, hc⟩ := packFields_formulas hf
  have h1 : (storeFields f s.toBlock).msP1.toNat = f.p1 := Nat.mod_eq_of_lt (by omega)
  have h2 : (storeFields f s.toBlock).msP2.toNat = f.p2 := Nat.mod_eq_of_lt (by omega)
  rw [← h1] at hfloor hp1 hmin hmax
  rw [← h2] at hmod hrem hlt
  exact ⟨hfloor, hmod, ofNat_of_toNat_eq h3, hrem, hp1, hq, hmin, hmax, hlt, hlarge⟩

/-- The image of fields that fit, as a number: they lie end to end (R195). -/
theorem image_toNat {p1 p2 p3 : Nat} (h1 : p1 < 2 ^ 18) (h2 : p2 < 2 ^ 30) (h3 : p3 < 2 ^ 30) :
    (BitVec.ofNat 30 p3 ++ BitVec.ofNat 30 p2 ++ BitVec.ofNat 18 p1).toNat = p1 + 2 ^ 18 * (p2 + 2 ^ 30 * p3) := by
  rw [BitVec.toNat_append, BitVec.toNat_append, BitVec.toNat_ofNat, BitVec.toNat_ofNat, BitVec.toNat_ofNat, Nat.mod_eq_of_lt h1,
    Nat.mod_eq_of_lt h2, Nat.mod_eq_of_lt h3, Nat.shiftLeft_eq_mul_pow, Nat.shiftLeft_eq_mul_pow, Nat.mul_comm p3,
    Nat.mul_comm _ (2 ^ 18), ← Nat.two_pow_add_eq_or_of_lt h2, ← Nat.two_pow_add_eq_or_of_lt h1]
  omega

/-- The bytes of an image are those of its value. -/
theorem leValue_imageBytes (f : Fields) :
    leValue (imageBytes Config.std f) = (BitVec.ofNat 30 f.p3 ++ BitVec.ofNat 30 f.p2 ++ BitVec.ofNat 18 f.p1).toNat := by
  have hbytes : imageBytes Config.std f =
      leBytes imageLen (BitVec.ofNat 30 f.p3 ++ BitVec.ofNat 30 f.p2 ++ BitVec.ofNat 18 f.p1).toNat :=
    (leBytes_toNat imageLen _).symm
  rw [hbytes]
  exact leValue_leBytes_of_lt ((BitVec.isLt _).trans (by decide))

/-- The image of fields that fit gives them back (R195). -/
theorem imageFields_imageBytes {f : Fields} (h1 : f.p1 < 2 ^ 18) (h2 : f.p2 < 2 ^ 30) (h3 : f.p3 < 2 ^ 30) :
    imageFields Config.std (imageBytes Config.std f) = f := by
  have hvalue := (leValue_imageBytes f).trans (image_toNat h1 h2 h3)
  have hwhole : (BitVec.ofNat (8 * imageLen) (leValue (imageBytes Config.std f))).toNat = f.p1 + 2 ^ 18 * (f.p2 + 2 ^ 30 * f.p3) := by
    rw [hvalue, BitVec.toNat_ofNat]
    exact Nat.mod_eq_of_lt (show _ < 2 ^ 80 by omega)
  have hp1 : Config.std.p1Bits = 18 := rfl
  have hp2 : Config.std.p2Bits = 30 := rfl
  have hp3 : Config.std.p3Bits = 30 := rfl
  obtain ⟨p1, p2, p3⟩ := f
  rw [imageFields, Fields.mk.injEq]
  simp only [BitVec.extractLsb'_toNat, hwhole, Nat.shiftRight_eq_div_pow, hp1, hp2, hp3] at *
  omega

/-- The parameters that the fields of R194 stand for (R200). -/
theorem unpackFields_packFields {a b c : Nat} {f : Fields} (h : packFields Config.std a b c = .ok f) :
    unpackFields f = .ok (a, b, c) := by
  obtain ⟨ha, ha', hb, hc, _⟩ := packFields_eq_ok h
  obtain ⟨_, _, h3, hrem, hp1, hq, _⟩ := packFields_formulas h
  generalize 128 * b / c = q at *
  have hlow : (f.p1 + 512) &&& 0x7F = q := by
    rw [show (0x7F : Nat) = 2 ^ 7 - 1 from rfl, Nat.and_two_pow_sub_one_eq_mod]
    omega
  rw [unpackFields_eq, if_neg (by omega), hlow, h3]
  simp only [Nat.shiftRight_eq_div_pow, Except.ok.injEq, Prod.mk.injEq, and_true]
  omega

/-- UNPACK after PACK computes what PACK started from (R201). -/
theorem unpackImage_storeFields {a b c : Nat} {f : Fields} (h : packFields Config.std a b c = .ok f) (s : Block) :
    unpackImage (storeFields f s).mem = .ok (f, a, b, c) := by
  obtain ⟨_, _, h3, _, _, _, _, h1, h2, _, hc⟩ := packFields_formulas h
  have hfetch : fetchBytes (storeFields f s).mem msregBase imageLen = .ok (imageBytes Config.std f) := by
    have hbytes := fetchBytes_writeBytes s.mem msregBase (imageBytes Config.std f)
    rwa [imageBytes_length] at hbytes
  unfold unpackImage fetchImage
  rw [hfetch, map_ok, ok_bind, imageFields_imageBytes (by omega) (by omega) (by omega), unpackFields_packFields h, map_ok]

/-- Settles O58: in the domain PACK computes fields, and UNPACK reads them back. -/
theorem packUnpackRoundTrip : Obligations.PackUnpackRoundTrip := by
  intro s ha ha' _ hc hb
  obtain ⟨f, hf⟩ : ∃ f, packFields Config.std s.msA.toNat s.msB.toNat s.msC.toNat = .ok f :=
    ⟨_, packFields_of_domain ha ha' hc hb⟩
  have hpack : exec .pack s = .next (s.mapBlock fun b => endNormally (storeFields f b)) := by rw [exec_pack, hf, endWith_ok]
  have hunpack := exec_unpack (s.mapBlock fun b => endNormally (storeFields f b))
  rw [mapBlock_toBlock, endNormally_mem, unpackImage_storeFields hf, endWith_ok] at hunpack
  exact ⟨_, _, hpack, hunpack, rfl, rfl, ofNat_of_toNat_eq rfl, ofNat_of_toNat_eq rfl, ofNat_of_toNat_eq rfl⟩

/-- The bytes that UNPACK reads, where all ten have been written. -/
theorem fetchImage_of_written {m : Memory} {v : Nat → Byte} (h : ∀ i, i < 10 → Memory.read m (0x20 + i) = some (v i)) :
    fetchImage Config.std m = .ok (imageFields Config.std [v 0, v 1, v 2, v 3, v 4, v 5, v 6, v 7, v 8, v 9]) := by
  have hfetch : fetchBytes m msregBase imageLen = .ok ((List.range imageLen).map v) := by
    have hlen : ((List.range imageLen).map v).length = imageLen := by simp
    have hread := fetchBytes_of_read (m := m) (bs := (List.range imageLen).map v) (a := msregBase) fun i hi => by
      rw [hlen] at hi
      rw [h i hi, List.getElem?_map, List.getElem?_range hi, Option.map_some]
    rwa [hlen] at hread
  unfold fetchImage
  rw [hfetch]
  rfl

/-- The fields of an image as R200 writes them. -/
theorem imageFields_shifts (m0 m1 m2 m3 m4 m5 m6 m7 m8 m9 : Byte) :
    imageFields Config.std [m0, m1, m2, m3, m4, m5, m6, m7, m8, m9] =
      ⟨((m2.toNat &&& 0x03) <<< 16) ||| (m1.toNat <<< 8) ||| m0.toNat,
       (m5.toNat <<< 22) ||| (m4.toNat <<< 14) ||| (m3.toNat <<< 6) ||| (m2.toNat >>> 2),
       ((m9.toNat &&& 0x3F) <<< 24) ||| (m8.toNat <<< 16) ||| (m7.toNat <<< 8) ||| m6.toNat⟩ := by
  have h3 : (0x03 : Nat) = 2 ^ 2 - 1 := rfl
  have h63 : (0x3F : Nat) = 2 ^ 6 - 1 := rfl
  have hm2 : m2.toNat >>> 2 < 2 ^ 6 := by rw [Nat.shiftRight_eq_div_pow]; omega
  rw [imageFields_std, h3, h63]
  simp only [BitVec.toNat_append, BitVec.extractLsb'_toNat, Nat.and_two_pow_sub_one_eq_mod, Nat.shiftLeft_or_distrib,
    ← Nat.shiftLeft_add, Nat.shiftRight_zero, Nat.mod_eq_of_lt hm2]

/-- The bounds of R195: the fields of any image fit their widths. -/
theorem imageFields_lt (bs : List Byte) :
    (imageFields Config.std bs).p1 < 2 ^ 18 ∧ (imageFields Config.std bs).p2 < 2 ^ 30 ∧ (imageFields Config.std bs).p3 < 2 ^ 30 :=
  ⟨BitVec.isLt _, BitVec.isLt _, BitVec.isLt _⟩

/-- "Ranges of the results for any image" (R200). -/
theorem unpacked_bounds {p1 p2 p3 : Nat} (h1 : p1 < 2 ^ 18) (h2 : p2 < 2 ^ 30) (h3 : p3 < 2 ^ 30) :
    (p1 + 512) >>> 7 ≤ 2051 ∧ (((p1 + 512) &&& 0x7F) * p3 + p2) >>> 7 < 2 ^ 30 := by
  have hq : (p1 + 512) &&& 0x7F ≤ 127 := Nat.and_le_right
  have hmul := Nat.mul_le_mul_right p3 hq
  simp only [Nat.shiftRight_eq_div_pow]
  omega

/-- UNPACK's results, register by register (R200). -/
theorem endWith_withUnpacked (f : Fields) (abc : Nat × Nat × Nat) (s : State) :
    endWith withUnpacked (.ok (f, abc)) s = .next { s with
      msP1 := BitVec.ofNat 32 f.p1, msP2 := BitVec.ofNat 32 f.p2, msP3 := BitVec.ofNat 32 f.p3,
      msA := BitVec.ofNat 16 abc.1, msC := BitVec.ofNat 32 abc.2.2, msB := BitVec.ofNat 32 abc.2.1,
      unset := settle [.msP1, .msP2, .msP3, .msA, .msB, .msC] s.unset, lastErr := 0 } := by
  have hunset := settle_settle [.msA, .msB, .msC] [.msP1, .msP2, .msP3] s.unset
  rw [List.cons_append, List.cons_append, List.cons_append, List.nil_append] at hunset
  rw [← hunset]
  rfl

/-- Settles O57: the image read, its fields by shifts, and the parameters by `unpackFields_eq`. -/
theorem unpackResult : Obligations.UnpackResult := by
  intro s m p1 p2 p3 hm h1 h2 h3
  have hfetch := fetchImage_of_written hm
  have hlt := imageFields_lt [m 0, m 1, m 2, m 3, m 4, m 5, m 6, m 7, m 8, m 9]
  rw [imageFields_shifts, ← h1, ← h2, ← h3] at hfetch hlt
  obtain ⟨hlt1, hlt2, hlt3⟩ := hlt
  obtain ⟨ha, hb⟩ := unpacked_bounds hlt1 hlt2 hlt3
  refine ⟨?_, ha, hb, hlt3⟩
  rw [exec_unpack]
  unfold unpackImage
  rw [hfetch, ok_bind, unpackFields_eq]
  split_ifs
  · rfl
  · exact endWith_withUnpacked _ _ s

end Sys2Proof.Machine
end

section
/-! PROOF. What CALCMS computes (43_multisynth R186 to R192), apart from the registers: the r search as doublings in a row (`Doublings`),
the solving step as F_VCO over the rate in lowest terms (`Rate.ratio`), and the shrink as the least right shift that fits. -/

namespace Sys2Proof.Machine

/-- y is x doubled k times, each time from an integer part below `F_RMIN` (R188). -/
inductive Doublings (x : Rate) : Nat → Rate → Prop
  | none : Doublings x 0 x
  | again {k : Nat} {y z : Rate} : Doublings x k y → y.int < 5000000 → doubleRate Config.std y = .ok z → Doublings x (k + 1) z

/-- The r search from a rate that k doublings led to. -/
def searchFrom (k : Nat) (x : Rate) : Except Abort (Rate × Nat) := searchDivider Config.std (5 - k) x (2 ^ k)

theorem searchFrom_of_stop {k : Nat} {x : Rate} (hk : k ≤ 5) (h : k = 5 ∨ 5000000 ≤ x.int) : searchFrom k x = .ok (x, 2 ^ k) := by
  rcases hk.eq_or_lt with rfl | hlt
  · rfl
  · have hfuel : 5 - k = (4 - k) + 1 := by omega
    have hstop : ¬ (x.int < 5000000 ∧ 2 ^ k < 32) := by omega
    rw [searchFrom, hfuel, searchDivider]
    exact if_neg hstop

theorem searchFrom_of_double {k : Nat} {x : Rate} (hk : k < 5) (h : x.int < 5000000) :
    searchFrom k x = doubleRate Config.std x >>= searchFrom (k + 1) := by
  have hfuel : 5 - k = (5 - (k + 1)) + 1 := by omega
  have hpow : 2 ^ k < 2 ^ 5 := Nat.pow_lt_pow_right (by decide) hk
  rw [searchFrom, hfuel, searchDivider]
  refine (if_pos ⟨h, hpow⟩).trans ?_
  rw [← Nat.pow_succ']
  rfl

/-- Doublings made are a part of the search. -/
theorem Doublings.searchFrom_eq {x y : Rate} {k : Nat} (h : Doublings x k y) (hk : k ≤ 5) : searchFrom 0 x = searchFrom k y := by
  induction h with
  | none => rfl
  | again _ hint hdouble ih => rw [ih (by omega), searchFrom_of_double (by omega) hint, hdouble, ok_bind]

/-- A search that ends has made some doublings, and stops where R188 says. -/
theorem searchFrom_eq_ok {x y : Rate} {k : Nat} {r : Rate × Nat} (hy : Doublings x k y) (hk : k ≤ 5) (h : searchFrom k y = .ok r) :
    ∃ j, j ≤ 5 ∧ Doublings x j r.1 ∧ r.2 = 2 ^ j ∧ (j = 5 ∨ 5000000 ≤ r.1.int) := by
  induction hn : 5 - k generalizing k y with
  | zero =>
    obtain rfl : k = 5 := by omega
    rw [searchFrom_of_stop hk (.inl rfl)] at h
    cases h
    exact ⟨5, hk, hy, rfl, .inl rfl⟩
  | succ n ih =>
    by_cases hint : y.int < 5000000
    · rw [searchFrom_of_double (by omega) hint] at h
      obtain ⟨z, hz, hrest⟩ := bind_eq_ok h
      exact ih (hy.again hint hz) (by omega) hrest (by omega)
    · rw [searchFrom_of_stop hk (.inr (by omega))] at h
      cases h
      exact ⟨k, hk, hy, rfl, .inr (Nat.not_lt.mp hint)⟩

/-- The rate the search starts from (R187). -/
def searchStart (dbl : BitVec 1) (x : Rate) : Except Abort Rate := if dbl = 1 then doubleRate Config.std x else .ok x

/-- R186 in these words. -/
theorem calcMultisynth_std (dbl : BitVec 1) (x : Rate) :
    calcMultisynth Config.std dbl x =
      if x.den = 0 then .error (.raise .invalidState 3 0)
      else searchStart dbl x >>= fun x1 => searchFrom 0 x1 >>= fun xr => solveRate Config.std xr.1 xr.2 := by
  have hfuel : searchDoublings Config.std = 5 := by decide
  rw [calcMultisynth_eq, hfuel]
  rfl

/-- `double` answers a rate in lowest terms (42_rational R176). -/
theorem lowest_of_doubleRate {x y : Rate} (h : doubleRate Config.std x = .ok y) : y.Lowest := by
  obtain ⟨hden, rfl, _⟩ := reduceRate_eq_ok (doubleRate_eq_ok h)
  exact Rate.lowest_reduced hden

/-- `double` doubles the value (42_rational R177). -/
theorem value_of_doubleRate {x y : Rate} (h : doubleRate Config.std x = .ok y) : y.value = 2 * x.value := by
  obtain ⟨hden, rfl, _⟩ := reduceRate_eq_ok (doubleRate_eq_ok h)
  exact (Rate.value_reduced hden).trans x.value_doubled

/-- The search starts from the wanted rate, or from its double, in lowest terms (R187). -/
theorem searchStart_cases {dbl : BitVec 1} {x y : Rate} (h : searchStart dbl x = .ok y) :
    (dbl = 1 ∧ doubleRate Config.std x = .ok y) ∨ (dbl = 0 ∧ y = x) := by
  unfold searchStart at h
  split_ifs at h with hdbl
  · exact .inl ⟨hdbl, h⟩
  · exact .inr ⟨by bv_omega, (Except.ok.inj h).symm⟩

/-- The search never meets a zero denominator. -/
theorem searchStart_den_ne_zero {dbl : BitVec 1} {x y : Rate} (hx : x.den ≠ 0) (h : searchStart dbl x = .ok y) : y.den ≠ 0 := by
  rcases searchStart_cases h with ⟨_, hdouble⟩ | ⟨_, rfl⟩
  · exact (lowest_of_doubleRate hdouble).den_pos.ne'
  · exact hx

theorem searchStart_value {dbl : BitVec 1} {x y : Rate} (h : searchStart dbl x = .ok y) :
    y.value = x.value * (if dbl = 1 then 2 else 1) := by
  rcases searchStart_cases h with ⟨rfl, hdouble⟩ | ⟨rfl, rfl⟩
  · exact (value_of_doubleRate hdouble).trans (mul_comm ..)
  · exact (mul_one _).symm

/-- A reduced rate is below the next integer. -/
theorem Rate.Lowest.value_lt {x : Rate} {n : Nat} (h : x.Lowest) (hint : x.int < n) : x.value < n := by
  have hfrac : (x.num : ℚ) / x.den < 1 := by
    rw [div_lt_one (by exact_mod_cast h.den_pos)]
    exact_mod_cast h.num_lt
  have hnext : (x.int : ℚ) + 1 ≤ n := by exact_mod_cast hint
  unfold Rate.value
  linarith

theorem Rate.int_le_value (x : Rate) : (x.int : ℚ) ≤ x.value := le_add_of_nonneg_right (by positivity)

theorem Doublings.den_ne_zero {x y : Rate} {k : Nat} (h : Doublings x k y) (hx : x.den ≠ 0) : y.den ≠ 0 := by
  cases h with
  | none => exact hx
  | again _ _ hdouble => exact (lowest_of_doubleRate hdouble).den_pos.ne'

theorem Doublings.value_eq {x y : Rate} {k : Nat} (h : Doublings x k y) : y.value = x.value * 2 ^ k := by
  induction h with
  | none => simp
  | again _ _ hdouble ih => rw [value_of_doubleRate hdouble, ih, pow_succ]; ring

theorem Doublings.lowest {x y : Rate} {k : Nat} (h : Doublings x k y) (hx : x.Lowest ∨ 0 < k) : y.Lowest := by
  cases h with
  | none => exact hx.resolve_right (Nat.lt_irrefl 0)
  | again _ _ hdouble => exact lowest_of_doubleRate hdouble

/-- The last doubling was of a reduced rate below 5,000,000, unless it was the first, of a rate not reduced. -/
theorem Doublings.value_lt {x y : Rate} {k : Nat} (h : Doublings x k y) :
    k = 0 ∨ y.value < 10000000 ∨ (¬ x.Lowest ∧ k = 1) := by
  cases h with
  | none => exact .inl rfl
  | @again k' y' _ hbefore hint hdouble =>
    refine .inr ?_
    by_cases hlow : x.Lowest ∨ 0 < k'
    · have hlt := (hbefore.lowest hlow).value_lt hint
      have hvalue := value_of_doubleRate hdouble
      push_cast at hlt
      exact .inl (by linarith)
    · obtain ⟨hx, hk⟩ := not_or.mp hlow
      exact .inr ⟨hx, by omega⟩

/-- A doubling is made only from an integer part below 5,000,000. -/
theorem Doublings.first_int_lt {x y : Rate} {k : Nat} (h : Doublings x k y) (hk : 0 < k) : x.int < 5000000 := by
  induction h with
  | none => omega
  | @again k' y' _ hbefore hint _ ih =>
    rcases Nat.eq_zero_or_pos k' with rfl | hpos
    · cases hbefore
      exact hint
    · exact ih hpos

/-- F_VCO over a rate, in lowest terms: a is its integer part, b/c its fraction before the shrink (R186). -/
def Rate.ratio (x : Rate) : Rate := Rate.reduced ⟨0, 2534400000 * x.den, x.int * x.den + x.num⟩

theorem Rate.ratio_int (x : Rate) : x.ratio.int = 2534400000 * x.den / (x.int * x.den + x.num) := Nat.zero_add _

/-- F_VCO over a rate that is not zero is in lowest terms, and its fraction fits in 64 bits when the divisor does. -/
theorem Rate.ratio_bounds {x : Rate} (h : x.int * x.den + x.num ≠ 0) (hfits : x.int * x.den + x.num < 2 ^ 64) :
    x.ratio.Lowest ∧ x.ratio.num < 2 ^ 64 ∧ x.ratio.den < 2 ^ 64 := by
  have hlow : x.ratio.Lowest := Rate.lowest_reduced h
  have hden : x.ratio.den < 2 ^ 64 := (Rate.reduced_den_le _).trans_lt hfits
  exact ⟨hlow, hlow.num_lt.trans hden, hden⟩

/-- The solving step (R186): the inner `reduce` can neither overflow nor meet a zero denominator. -/
theorem solveRate_std (x : Rate) (r : Nat) :
    solveRate Config.std x r =
      if 2 ^ 64 ≤ 2534400000 * x.den then .error (.raise .rangeError 2 4)
      else if 2 ^ 64 ≤ x.int * x.den then .error (.raise .rangeError 2 5)
      else if 2 ^ 64 ≤ x.int * x.den + x.num then .error (.raise .rangeError 2 6)
      else if x.int * x.den + x.num = 0 then .error (.raise .rangeError 3 0)
      else if x.ratio.int < 8 ∨ 567 < x.ratio.int then .error (.raise .rangeError 1 0)
      else .ok ⟨x.ratio.int, (shrink (2 ^ 30) 64 x.ratio.num x.ratio.den).1, (shrink (2 ^ 30) 64 x.ratio.num x.ratio.den).2, r⟩ := by
  rw [solveRate_eq]
  refine ite_congr rfl (fun _ => rfl) fun hvn => ite_congr rfl (fun _ => rfl) fun _ => ite_congr rfl (fun _ => rfl) fun _ =>
    ite_congr rfl (fun _ => rfl) fun hzero => ?_
  have hfits : x.ratio.int < 2 ^ 64 := by
    rw [Rate.ratio_int]
    exact (Nat.div_le_self _ _).trans_lt (Nat.not_le.mp hvn)
  have hreduce : reduceRate Config.std ⟨0, 2534400000 * x.den, x.int * x.den + x.num⟩ = .ok x.ratio := reduceRate_of_fits hzero hfits
  exact (congrArg (· >>= _) hreduce).trans rfl

/-- The shrink is a right shift, by the least number of places that brings both numbers to the limit or below (R191). -/
theorem shrink_eq_shiftRight {limit n k b c : Nat} (hk : k ≤ n) (hb : b >>> k ≤ limit) (hc : c >>> k ≤ limit)
    (hmin : ∀ m, m < k → limit < b >>> m ∨ limit < c >>> m) : shrink limit n b c = (b >>> k, c >>> k) := by
  induction k generalizing n b c with
  | zero =>
    cases n with
    | zero => rfl
    | succ n => exact if_neg (not_or.mpr ⟨Nat.not_lt.mpr hb, Nat.not_lt.mpr hc⟩)
  | succ k ih =>
    obtain ⟨n, rfl⟩ : ∃ n', n = n' + 1 := ⟨n - 1, by omega⟩
    have hshift : ∀ v m : Nat, v >>> (m + 1) = (v >>> 1) >>> m := fun v m => by rw [← Nat.shiftRight_add, Nat.add_comm]
    have hrest : shrink limit n (b >>> 1) (c >>> 1) = (b >>> 1 >>> k, c >>> 1 >>> k) :=
      ih (by omega) (hshift b k ▸ hb) (hshift c k ▸ hc) fun m hm => hshift b m ▸ hshift c m ▸ hmin (m + 1) (by omega)
    rw [hshift b k, hshift c k, ← hrest]
    exact if_pos (hmin 0 (by omega))

/-- The shrink of numbers that fit in 64 bits, by the least shift: 64 passes are enough (R191; log 14). -/
theorem shrink_of_least {b c k : Nat} (hb : b < 2 ^ 64) (hc : c < 2 ^ 64) (hbk : b >>> k ≤ 2 ^ 30) (hck : c >>> k ≤ 2 ^ 30)
    (hmin : ∀ m, m < k → 2 ^ 30 < b >>> m ∨ 2 ^ 30 < c >>> m) : shrink (2 ^ 30) 64 b c = (b >>> k, c >>> k) := by
  refine shrink_eq_shiftRight (Nat.not_lt.mp fun hk => ?_) hbk hck hmin
  have h64 := hmin 64 hk
  rw [Nat.shiftRight_eq_zero _ _ hb, Nat.shiftRight_eq_zero _ _ hc] at h64
  omega

/-- A proper fraction that the passes are enough for: after the shrink "`b ≤ c` holds", and c is from 1 to the limit (R191, R192). -/
theorem shrink_bounds {limit n b c : Nat} (hbc : b ≤ c) (hpos : 1 ≤ c) (hc : c < 2 ^ n) (hlimit : 1 ≤ limit) :
    (shrink limit n b c).1 ≤ (shrink limit n b c).2 ∧ 1 ≤ (shrink limit n b c).2 ∧ (shrink limit n b c).2 ≤ limit := by
  induction n generalizing b c with
  | zero => omega
  | succ n ih =>
    rw [shrink]
    split_ifs with hover
    · rw [Nat.shiftRight_eq_div_pow, Nat.shiftRight_eq_div_pow]
      exact ih (by omega) (by omega) (by omega)
    · exact ⟨hbc, hpos, by omega⟩

/-- The solving step by its intermediate values (R186): vn, t and vd, and b and c before the shrink. -/
theorem solveRate_steps {x : Rate} {vn t vd b c : Nat} (r : Nat) (hvn : vn = 2534400000 * x.den) (ht : t = x.int * x.den)
    (hvd : vd = t + x.num) (hb : b = vn % vd / Nat.gcd (vn % vd) vd) (hc : c = vd / Nat.gcd (vn % vd) vd) :
    solveRate Config.std x r =
      if 2 ^ 64 ≤ vn then .error (.raise .rangeError 2 4)
      else if 2 ^ 64 ≤ t then .error (.raise .rangeError 2 5)
      else if 2 ^ 64 ≤ vd then .error (.raise .rangeError 2 6)
      else if vd = 0 then .error (.raise .rangeError 3 0)
      else if vn / vd < 8 ∨ 567 < vn / vd then .error (.raise .rangeError 1 0)
      else .ok ⟨vn / vd, (shrink (2 ^ 30) 64 b c).1, (shrink (2 ^ 30) 64 b c).2, r⟩ := by
  subst hvn ht hvd hb hc
  rw [solveRate_std, Rate.ratio_int]
  rfl

/-- What the solving step answers (R186): the tests passed, and the solution. -/
theorem solveRate_eq_ok {x : Rate} {r : Nat} {m : Multisynth} (h : solveRate Config.std x r = .ok m) :
    x.int * x.den + x.num ≠ 0 ∧ x.int * x.den + x.num < 2 ^ 64 ∧ 8 ≤ x.ratio.int ∧ x.ratio.int ≤ 567 ∧
      m = ⟨x.ratio.int, (shrink (2 ^ 30) 64 x.ratio.num x.ratio.den).1, (shrink (2 ^ 30) 64 x.ratio.num x.ratio.den).2, r⟩ := by
  rw [solveRate_std] at h
  split_ifs at h with _ _ hvd hzero hrange
  exact ⟨hzero, by omega, by omega, by omega, (Except.ok.inj h).symm⟩

end Sys2Proof.Machine
end

section
/-! PROOF. CALCMS, its results and its raises (43_multisynth R186 to R192). The doublings that its search makes lead to one equation for
the command (`exec_calcms_of_doublings`), which gives its results and its raises in order. -/

namespace Sys2Proof.Machine

theorem exec_calcms (s : State) :
    exec .calcms s = endWith withMultisynth (calcMultisynth Config.std s.msDbl (rateOf s.toBlock)) s := rfl

/-- Doublings in a row leave the rest of the search and the solving step (R188). -/
theorem exec_calcms_of_doublings {s : State} {x y : Rate} {k : Nat} (hden : s.rDen ≠ 0)
    (hstart : searchStart s.msDbl (rateOf s.toBlock) = .ok x) (hx : Doublings x k y) (hk : k ≤ 5) :
    exec .calcms s = endWith withMultisynth (searchFrom k y >>= fun xr => solveRate Config.std xr.1 xr.2) s := by
  have hden' : (rateOf s.toBlock).den ≠ 0 := (rDen_eq_zero_iff s).not.mp hden
  rw [exec_calcms, calcMultisynth_std, if_neg hden', hstart, ok_bind, hx.searchFrom_eq hk]

/-- Doublings up to where the search stops leave the solving step. -/
theorem exec_calcms_of_stop {s : State} {x y : Rate} {k : Nat} (hden : s.rDen ≠ 0)
    (hstart : searchStart s.msDbl (rateOf s.toBlock) = .ok x) (hx : Doublings x k y) (hk : k ≤ 5)
    (hstop : k = 5 ∨ 5000000 ≤ y.int) :
    exec .calcms s = endWith withMultisynth (solveRate Config.std y (2 ^ k)) s := by
  rw [exec_calcms_of_doublings hden hstart hx hk, searchFrom_of_stop hk hstop, ok_bind]

/-- A raise in the search is CALCMS's. -/
theorem exec_calcms_of_search_raise {s : State} {x y : Rate} {k : Nat} {e : Abort} (hden : s.rDen ≠ 0)
    (hstart : searchStart s.msDbl (rateOf s.toBlock) = .ok x) (hx : Doublings x k y) (hk : k < 5) (hint : y.int < 5000000)
    (hraise : doubleRate Config.std y = .error e) : exec .calcms s = endWith withMultisynth (.error e) s := by
  rw [exec_calcms_of_doublings hden hstart hx hk.le, searchFrom_of_double hk hint, hraise, error_bind, error_bind]

/-- DOUBLE without a cause leaves in the registers what `double` answers, exactly. -/
theorem doubleRate_of_exec {s t : State} (h : exec .double s = .next t) (hl : t.lastErr = 0) :
    doubleRate Config.std (rateOf s.toBlock) = .ok (rateOf t.toBlock) := by
  have hend := rateEnd_reduceRate_of_double h hl
  obtain ⟨_, hrate, _⟩ := rateEnd_reduceRate_without_cause (x := (rateOf s.toBlock).doubled) s.rDen.isLt hend hl
  obtain ⟨y, hy, _⟩ := rateEnd_without_cause h hl
  obtain ⟨_, rfl, _⟩ := reduceRate_eq_ok (doubleRate_eq_ok hy)
  rw [hrate, hy]

/-- The end of a rate command is of the same form. -/
theorem rateEnd_eq_endWith (r : Except Abort Rate) (s : State) : rateEnd r s = endWith withRate r s := rfl

/-- A raise of DOUBLE is `double`'s. -/
theorem doubleRate_raise_of_exec {s t : State} (h : exec .double s = .next t) (hl : t.lastErr ≠ 0) :
    ∃ c sub val, doubleRate Config.std (rateOf s.toBlock) = .error (.raise c sub val) ∧ t = s.mapBlock (recordCause c sub val) :=
  endWith_with_cause (((exec_double s).trans (rateEnd_eq_endWith _ s)).symm.trans h) hl

/-- With MS_DBL = 1 a raise of `double` is CALCMS's (R187): the denominator is tested first in both. -/
theorem calcMultisynth_of_double_raise {x : Rate} {e : Abort} (h : doubleRate Config.std x = .error e) :
    calcMultisynth Config.std 1 x = .error e := by
  rw [calcMultisynth_std]
  split_ifs with hden
  · rw [doubleRate_eq, if_pos hden] at h
    exact congrArg Except.error (Except.error.inj h)
  · rw [searchStart, if_pos rfl, h, error_bind]

/-- Which steps of `double` can overflow in the search: an integer part below 5,000,000 passes step 2 (R186). -/
theorem doubleRate_raise_of_small {x : Rate} {e : Abort} (hden : x.den ≠ 0) (hint : x.int < 5000000)
    (h : doubleRate Config.std x = .error e) : e = .raise .rangeError 2 3 ∨ e = .raise .rangeError 2 1 := by
  rw [doubleRate_eq, wRate_std, if_neg hden, if_neg (show ¬ 2 ^ 64 ≤ 2 * x.int by omega)] at h
  split_ifs at h
  · exact .inl (Except.error.inj h).symm
  · rw [reduceRate_eq, if_neg (show ¬ (Rate.mk (2 * x.int) (2 * x.num) x.den).den = 0 from hden)] at h
    split_ifs at h
    exact .inr (Except.error.inj h).symm

/-- DOUBLE after DOUBLE, each from an integer part below 5,000,000, are the doublings of the search. -/
theorem doublings_of_exec {x : Nat → State} {j : Nat}
    (h : ∀ m, m < j → (x m).rInt.toNat < 5000000 ∧ exec .double (x m) = .next (x (m + 1)) ∧ (x (m + 1)).lastErr = 0) :
    Doublings (rateOf (x 0).toBlock) j (rateOf (x j).toBlock) := by
  induction j with
  | zero => exact .none
  | succ j ih =>
    obtain ⟨hint, hdouble, hl⟩ := h j (by omega)
    exact (ih fun m hm => h m (by omega)).again hint (doubleRate_of_exec hdouble hl)

/-- The search starts from the rate in the registers, or from the one that DOUBLE leaves there (R187). -/
theorem searchStart_of_exec {s u : State}
    (h : (s.msDbl = 0 ∧ u = s) ∨ (s.msDbl = 1 ∧ exec .double s = .next u ∧ u.lastErr = 0)) :
    searchStart s.msDbl (rateOf s.toBlock) = .ok (rateOf u.toBlock) := by
  rcases h with ⟨hdbl, rfl⟩ | ⟨hdbl, hdouble, hl⟩
  · rw [hdbl]
    rfl
  · rw [hdbl, ← doubleRate_of_exec hdouble hl]
    rfl

/-- Settles O52: the doublings that the hypotheses name are the search's, up to its raise or to the solving step. -/
theorem calcmsResult : Obligations.CalcmsResult := by
  refine ⟨fun s hden => ?_, fun s u hdbl hu hl => ?_, fun s x j hden hfirst hj hdoublings => ?_⟩
  · have hden' : (rateOf s.toBlock).den = 0 := (rDen_eq_zero_iff s).mp hden
    rw [exec_calcms, calcMultisynth_std, if_pos hden']
    rfl
  · obtain ⟨c, sub, val, hraise, rfl⟩ := doubleRate_raise_of_exec hu hl
    rw [exec_calcms, hdbl, calcMultisynth_of_double_raise hraise]
    rfl
  have hstart := searchStart_of_exec hfirst
  have hsearch := doublings_of_exec hdoublings
  refine ⟨fun u hj5 hint hu hl => ?_, fun vn t vd g b c hstop hvn ht hvd hg hb hc => ?_⟩
  · obtain ⟨c, sub, val, hraise, rfl⟩ := doubleRate_raise_of_exec hu hl
    have hnz := hsearch.den_ne_zero (searchStart_den_ne_zero ((rDen_eq_zero_iff s).not.mp hden) hstart)
    rw [exec_calcms_of_search_raise hden hstart hsearch hj5 hint hraise]
    rcases doubleRate_raise_of_small hnz hint hraise with he | he <;> cases he
    · exact ⟨.inl rfl, rfl⟩
    · exact ⟨.inr rfl, rfl⟩
  · rw [exec_calcms_of_stop hden hstart hsearch hj hstop, solveRate_steps (2 ^ j) hvn ht hvd (hg ▸ hb) (hg ▸ hc)]
    refine ⟨fun h4 => ?_, fun h4 h5 => ?_, fun h4 h5 h6 => ?_, fun h4 h0 => ?_, fun h4 h0 h6 hout => ?_,
      fun h4 h0 h6 hmin hmax k hbk hck hleast => ?_⟩
    · rw [if_pos h4]
      rfl
    · rw [if_neg (by omega), if_pos h5]
      rfl
    · rw [if_neg (by omega), if_neg (by omega), if_pos h6]
      rfl
    · rw [if_neg (by omega), if_neg (by omega), if_neg (by omega), if_pos h0]
      rfl
    · rw [if_neg (by omega), if_neg (by omega), if_neg (by omega), if_neg (by omega), if_pos hout]
      rfl
    · have hcfits : c < 2 ^ 64 := hc ▸ (Nat.div_le_self _ _).trans_lt h6
      have hbfits : b < 2 ^ 64 := hb ▸ (Nat.div_le_self _ _).trans_lt ((Nat.mod_lt _ h0).trans h6)
      rw [if_neg (by omega), if_neg (by omega), if_neg (by omega), if_neg (by omega), if_neg (by omega),
        shrink_of_least hbfits hcfits hbk hck hleast]
      rfl

end Sys2Proof.Machine
end

section
/-! PROOF. CALCMS of an integer rate with MS_DBL = 0 (43_multisynth R190): which rates it accepts. -/

namespace Sys2Proof.Machine

/-- `double` of an integer rate that fits (R175). -/
theorem doubleRate_integer {i : Nat} (h : 2 * i < 2 ^ 64) : doubleRate Config.std ⟨i, 0, 1⟩ = .ok ⟨2 * i, 0, 1⟩ := by
  have hlow : (⟨2 * i, 0, 1⟩ : Rate).Lowest := ⟨Nat.one_pos, Nat.one_pos, Nat.gcd_one_right 0⟩
  have hreduce := reduceRate_of_fits (cfg := Config.std) hlow.den_pos.ne' (hlow.reduced_eq.symm ▸ h)
  rw [hlow.reduced_eq] at hreduce
  rw [doubleRate_eq, wRate_std, if_neg Nat.one_ne_zero, if_neg (show ¬ 2 ^ 64 ≤ 2 * i by omega),
    if_neg (show ¬ 2 ^ 64 ≤ 2 * 0 by decide)]
  exact hreduce

/-- The doublings of an integer rate. -/
theorem doublings_integer {i k : Nat} (h : ∀ m, m < k → 2 ^ m * i < 5000000) : Doublings ⟨i, 0, 1⟩ k ⟨2 ^ k * i, 0, 1⟩ := by
  induction k with
  | zero => simpa using Doublings.none (x := ⟨i, 0, 1⟩)
  | succ k ih =>
    have hint : 2 ^ k * i < 5000000 := h k (by omega)
    have hdouble := doubleRate_integer (i := 2 ^ k * i) (by omega)
    rw [← Nat.mul_assoc, ← Nat.pow_succ'] at hdouble
    exact (ih fun m hm => h m (by omega)).again hint hdouble

/-- Where the search of an integer rate stops. -/
theorem exists_integer_stop (i : Nat) :
    ∃ k, k ≤ 5 ∧ (k = 5 ∨ 5000000 ≤ 2 ^ k * i) ∧ ∀ m, m < k → 2 ^ m * i < 5000000 := by
  have hstop : ∃ k, k = 5 ∨ 5000000 ≤ 2 ^ k * i := ⟨5, .inl rfl⟩
  refine ⟨Nat.find hstop, Nat.find_min' hstop (.inl rfl), Nat.find_spec hstop, fun m hm => ?_⟩
  exact Nat.not_le.mp fun hle => Nat.find_min hstop hm (.inr hle)

/-- Where the search of an integer rate that fits stops, the rate fits. -/
theorem lt_of_integer_stop {i k : Nat} (hi : i < 2 ^ 64) (h : ∀ m, m < k → 2 ^ m * i < 5000000) : 2 ^ k * i < 2 ^ 64 := by
  cases k with
  | zero => omega
  | succ k =>
    have hlast := h k (Nat.lt_succ_self k)
    rw [Nat.pow_succ', Nat.mul_assoc]
    omega

/-- The solving step for an integer rate: its intermediate values fit. -/
theorem solveRate_integer {v : Nat} (hv : v < 2 ^ 64) (r : Nat) :
    solveRate Config.std ⟨v, 0, 1⟩ r =
      if v = 0 then .error (.raise .rangeError 3 0)
      else if 2534400000 / v < 8 ∨ 567 < 2534400000 / v then .error (.raise .rangeError 1 0)
      else .ok ⟨2534400000 / v, (shrink (2 ^ 30) 64 (Rate.ratio ⟨v, 0, 1⟩).num (Rate.ratio ⟨v, 0, 1⟩).den).1,
        (shrink (2 ^ 30) 64 (Rate.ratio ⟨v, 0, 1⟩).num (Rate.ratio ⟨v, 0, 1⟩).den).2, r⟩ := by
  simp only [solveRate_std, Rate.ratio_int, Nat.mul_one, Nat.add_zero, Nat.not_le.mpr hv, if_false]
  rfl

/-- "The accepted integer rates" (R190): a is in range exactly when the rate is. -/
theorem integer_range {i k : Nat} (hk : k ≤ 5) (hstop : k = 5 ∨ 5000000 ≤ 2 ^ k * i)
    (hsearch : ∀ m, m < k → 2 ^ m * i < 5000000) (hi : 0 < i) :
    (2534400000 / (2 ^ k * i) < 8 ∨ 567 < 2534400000 / (2 ^ k * i)) ↔ i < 139437 ∨ 316800000 < i := by
  have hpos : 0 < 2 ^ k * i := Nat.mul_pos (Nat.two_pow_pos k) hi
  have hlast : k = 0 ∨ 2 ^ (k - 1) * i < 5000000 := (Nat.eq_zero_or_pos k).imp_right fun h => hsearch _ (by omega)
  rw [Nat.div_lt_iff_lt_mul hpos, Nat.lt_iff_add_one_le (n := 2534400000 / _), Nat.le_div_iff_mul_le hpos]
  interval_cases k <;> omega

/-- Settles O51: the search stops at an integer rate, and `integer_range` says whether the solving step accepts it. -/
theorem calcmsAcceptsExactlyTheseIntegerRates : Obligations.CalcmsAcceptsExactlyTheseIntegerRates := by
  intro s hdbl hnum hden
  obtain ⟨k, hk, hstop, hsearch⟩ := exists_integer_stop s.rInt.toNat
  have hrate : rateOf s.toBlock = ⟨s.rInt.toNat, 0, 1⟩ := by
    rw [rateOf, hnum, hden]
    rfl
  have hstart : searchStart s.msDbl (rateOf s.toBlock) = .ok ⟨s.rInt.toNat, 0, 1⟩ := by
    rw [hdbl, hrate]
    rfl
  have hfits := lt_of_integer_stop s.rInt.isLt hsearch
  have hzero : 2 ^ k * s.rInt.toNat = 0 ↔ s.rInt.toNat = 0 := by simp
  rw [exec_calcms_of_stop (by rw [hden]; decide) hstart (doublings_integer hsearch) hk hstop, solveRate_integer hfits]
  split_ifs with h0 hout
  · exact ⟨_, rfl, rfl, fun _ => by omega, fun _ => rfl, fun _ => by omega⟩
  · have hrange := (integer_range hk hstop hsearch (by omega)).mp hout
    exact ⟨_, rfl, rfl, fun _ => by omega, fun _ => by omega, fun _ => rfl⟩
  · have hrange := (integer_range hk hstop hsearch (by omega)).not.mp hout
    exact ⟨_, rfl, rfl, fun _ => rfl, fun _ => by omega, fun _ => by omega⟩

end Sys2Proof.Machine
end

section
/-! PROOF. What holds of the registers after a CALCMS that ends with no cause (43_multisynth R186, R188, R191, R193). -/

namespace Sys2Proof.Machine

/-- The search of CALCMS from a rate x ends after k doublings with a rate y (R186 to R188). -/
structure Searched (dbl : BitVec 1) (x : Rate) (k : Nat) (y : Rate) : Prop where
  den_ne_zero : x.den ≠ 0
  doublings : ∃ x1, searchStart dbl x = .ok x1 ∧ Doublings x1 k y
  le_five : k ≤ 5
  stops : k = 5 ∨ 5000000 ≤ y.int

/-- CALCMS without a cause is a search and a solving step. -/
theorem exec_calcms_without_cause {s t : State} (h : exec .calcms s = .next t) (hl : t.lastErr = 0) :
    ∃ k y m, Searched s.msDbl (rateOf s.toBlock) k y ∧ solveRate Config.std y (2 ^ k) = .ok m ∧
      t = s.mapBlock (fun b => endNormally (withMultisynth m b)) := by
  rw [exec_calcms] at h
  obtain ⟨m, hm, rfl⟩ := endWith_without_cause h hl
  rw [calcMultisynth_std] at hm
  split_ifs at hm with hden
  obtain ⟨x1, hstart, hm⟩ := bind_eq_ok hm
  obtain ⟨⟨y, r⟩, hsearch, hm⟩ := bind_eq_ok hm
  obtain ⟨k, hk, hdoublings, rfl, hstop⟩ := searchFrom_eq_ok .none (Nat.zero_le 5) hsearch
  exact ⟨k, y, m, ⟨hden, ⟨x1, hstart, hdoublings⟩, hk, hstop⟩, hm, rfl⟩

section Search
variable {dbl : BitVec 1} {x y : Rate} {k : Nat}

theorem Searched.den_ne_zero_end (h : Searched dbl x k y) : y.den ≠ 0 := by
  obtain ⟨x1, hstart, hdoublings⟩ := h.doublings
  exact hdoublings.den_ne_zero (searchStart_den_ne_zero h.den_ne_zero hstart)

theorem Searched.value_eq (h : Searched dbl x k y) : y.value = x.value * (if dbl = 1 then 2 else 1) * 2 ^ k := by
  obtain ⟨x1, hstart, hdoublings⟩ := h.doublings
  rw [hdoublings.value_eq, searchStart_value hstart]

/-- "The integer part reaches 5,000,000 or r reaches 32" (R188). -/
theorem Searched.le_value (h : Searched dbl x k y) : 5000000 ≤ y.value ∨ k = 5 := by
  refine h.stops.symm.imp_left fun hint => le_trans ?_ y.int_le_value
  exact_mod_cast hint

/-- The last doubling was needed, but for a first one of a rate that was not reduced. -/
theorem Searched.value_lt (h : Searched dbl x k y) : k = 0 ∨ y.value < 10000000 ∨ (dbl = 0 ∧ k = 1) := by
  obtain ⟨x1, hstart, hdoublings⟩ := h.doublings
  refine hdoublings.value_lt.imp_right (Or.imp_right fun ⟨hlow, hk⟩ => ⟨?_, hk⟩)
  rcases searchStart_cases hstart with ⟨_, hdouble⟩ | ⟨hdbl, _⟩
  · exact absurd (lowest_of_doubleRate hdouble) hlow
  · exact hdbl

/-- With MS_DBL = 0 the search looks at the integer part as it stands (R186). -/
theorem Searched.eq_zero_iff (h : Searched 0 x k y) : k = 0 ↔ 5000000 ≤ x.int := by
  obtain ⟨x1, hstart, hdoublings⟩ := h.doublings
  cases hstart
  constructor
  · rintro rfl
    cases hdoublings
    exact h.stops.resolve_left (by decide)
  · intro hint
    by_contra hk
    have hlt := hdoublings.first_int_lt (Nat.pos_of_ne_zero hk)
    omega

end Search

/-- `MS_R` holds the divider 2^k, and tells k (R188). -/
theorem divider_register {k : Nat} (h : k ≤ 5) :
    (BitVec.ofNat 8 (2 ^ k)).toNat = 2 ^ k ∧ BitVec.ofNat 8 (2 ^ k) ∈ [1#8, 2#8, 4#8, 8#8, 16#8, 32#8] ∧
      (BitVec.ofNat 8 (2 ^ k) = 1 ↔ k = 0) ∧ (k = 1 → BitVec.ofNat 8 (2 ^ k) = 2) ∧ (k = 5 → BitVec.ofNat 8 (2 ^ k) = 32) := by
  interval_cases k <;> decide

/-- The solution of CALCMS in its ranges (R190, R191). -/
theorem solveRate_bounds {y : Rate} {r : Nat} {m : Multisynth} (h : solveRate Config.std y r = .ok m) :
    8 ≤ m.a ∧ m.a ≤ 567 ∧ m.b ≤ m.c ∧ 1 ≤ m.c ∧ m.c ≤ 2 ^ 30 ∧ m.r = r := by
  obtain ⟨hzero, hvd, hmin, hmax, rfl⟩ := solveRate_eq_ok h
  obtain ⟨hlow, _, hden⟩ := Rate.ratio_bounds hzero hvd
  obtain ⟨hle, hpos, hlimit⟩ := shrink_bounds (limit := 2 ^ 30) (n := 64) hlow.num_lt.le hlow.den_pos hden (by decide)
  exact ⟨hmin, hmax, hle, hpos, hlimit, rfl⟩

/-- CALCMS's registers hold its solution, which fits them. -/
theorem withMultisynth_toNat {y : Rate} {r : Nat} {m : Multisynth} (h : solveRate Config.std y r = .ok m) (b : Block) :
    (withMultisynth m b).msA.toNat = m.a ∧ (withMultisynth m b).msB.toNat = m.b ∧ (withMultisynth m b).msC.toNat = m.c := by
  obtain ⟨hmin, hmax, hle, hpos, hlimit, _⟩ := solveRate_bounds h
  simp only [withMultisynth_msA, withMultisynth_msB, withMultisynth_msC, BitVec.toNat_ofNat]
  exact ⟨Nat.mod_eq_of_lt (by omega), Nat.mod_eq_of_lt (by omega), Nat.mod_eq_of_lt (by omega)⟩

/-- Settles O53: the ranges are the solution's, the divider and the rate are the search's. -/
theorem calcmsResultIsInRange : Obligations.CalcmsResultIsInRange := by
  intro s t h hl
  obtain ⟨k, y, ⟨a, b, c, r⟩, hsearch, hm, rfl⟩ := exec_calcms_without_cause h hl
  obtain ⟨hmin, hmax, hle, hpos, hlimit, hr⟩ := solveRate_bounds hm
  obtain rfl : r = 2 ^ k := hr
  obtain ⟨ha, hb, hc⟩ := withMultisynth_toNat hm s.toBlock
  obtain ⟨htoNat, hmem, hone, htwo, h32⟩ := divider_register hsearch.le_five
  refine ⟨ha ▸ hmin, ha ▸ hmax, hmem, hb ▸ hc ▸ hle, hc ▸ hpos, hc ▸ hlimit, rfl, fun x hx => ?_, fun hdbl => ?_⟩
  · have hvalue : x * ((BitVec.ofNat 8 (2 ^ k)).toNat : ℚ) = y.value := by
      rw [htoNat, hsearch.value_eq, hx, Nat.cast_pow]
      rfl
    refine ⟨hvalue ▸ hsearch.le_value.imp_right h32, ?_⟩
    exact hvalue ▸ hsearch.value_lt.imp hone.mpr (Or.imp_right (And.imp_right htwo))
  · rw [hdbl] at hsearch
    exact hone.trans hsearch.eq_zero_iff

/-- A rate as one fraction. -/
theorem Rate.value_eq_div {x : Rate} (h : x.den ≠ 0) : x.value = ((x.int * x.den + x.num : ℕ) : ℚ) / (x.den : ℕ) := by
  have hden : (x.den : ℚ) ≠ 0 := Nat.cast_ne_zero.mpr h
  unfold Rate.value
  push_cast
  field_simp

/-- The number that a rate in lowest terms stands for has its denominator. -/
theorem Rate.Lowest.den_value {x : Rate} (h : x.Lowest) : x.value.den = x.den := by
  have hcoprime : Nat.Coprime (x.int * x.den + x.num) x.den := (Nat.coprime_mul_right_add_left _ _ _).mpr h.gcd_eq
  have hden := Rat.den_div_eq_of_coprime (a := (x.int * x.den + x.num : ℕ)) (b := (x.den : ℕ)) (by exact_mod_cast h.den_pos) hcoprime
  rw [Int.cast_natCast, Int.cast_natCast, ← Rate.value_eq_div h.den_pos.ne'] at hden
  exact_mod_cast hden

/-- The solving step divides F_VCO by the rate, exactly (R193). -/
theorem Rate.value_ratio {x : Rate} (hden : x.den ≠ 0) (h : x.int * x.den + x.num ≠ 0) : x.ratio.value = 2534400000 / x.value := by
  rw [Rate.ratio, Rate.value_reduced h, Rate.value_eq_div hden, div_div_eq_mul_div]
  simp [Rate.value]

/-- A solution whose denominator is within the limit is not shrunk (R193). -/
theorem solveRate_of_den_le {y : Rate} {r : Nat} {m : Multisynth} (h : solveRate Config.std y r = .ok m) (hden : y.ratio.den ≤ 2 ^ 30) :
    m.a = y.ratio.int ∧ m.b = y.ratio.num ∧ m.c = y.ratio.den := by
  obtain ⟨hzero, hvd, _, _, rfl⟩ := solveRate_eq_ok h
  obtain ⟨hlow, hnum, hfits⟩ := Rate.ratio_bounds hzero hvd
  have hshrink := shrink_of_least (k := 0) hnum hfits (hlow.num_lt.le.trans hden) hden (fun _ hm => absurd hm (Nat.not_lt_zero _))
  rw [hshrink]
  exact ⟨rfl, rfl, rfl⟩

/-- Settles O54: the registers hold F_VCO over the search's rate, in lowest terms. -/
theorem calcmsIsExactWithoutShrink : Obligations.CalcmsIsExactWithoutShrink := by
  intro s t q h hl hq hqden
  obtain ⟨k, y, ⟨a, b, c, r⟩, hsearch, hm, rfl⟩ := exec_calcms_without_cause h hl
  obtain ⟨_, _, _, _, _, hr⟩ := solveRate_bounds hm
  obtain rfl : r = 2 ^ k := hr
  obtain ⟨hzero, _⟩ := solveRate_eq_ok hm
  obtain ⟨htoNat, _⟩ := divider_register hsearch.le_five
  have hvalue : (rateOf s.toBlock).value * (((BitVec.ofNat 8 (2 ^ k)).toNat : ℚ) * (if s.msDbl = 1 then 2 else 1)) = y.value := by
    rw [htoNat, hsearch.value_eq, Nat.cast_pow, mul_assoc, mul_comm ((2 : ℕ) ^ k : ℚ)]
    rfl
  have hratio : q = y.ratio.value := by
    rw [Rate.value_ratio hsearch.den_ne_zero_end hzero, ← hvalue, hq]
    rfl
  have hlow : y.ratio.Lowest := Rate.lowest_reduced hzero
  have hqden' : q.den = y.ratio.den := by rw [hratio, hlow.den_value]
  obtain ⟨rfl, rfl, rfl⟩ := solveRate_of_den_le hm (hqden' ▸ hqden)
  obtain ⟨ha, hb, hc⟩ := withMultisynth_toNat hm s.toBlock
  refine ⟨?_, hc.trans hqden'.symm, hb ▸ hc ▸ hlow.num_lt, hb ▸ hc ▸ hlow.gcd_eq, fun hb0 => BitVec.eq_of_toNat_eq ?_⟩
  · rw [hratio, Rate.value]
    exact hb ▸ hc ▸ ha ▸ rfl
  · exact hc.trans (hlow.den_eq_one (hb.symm.trans (congrArg BitVec.toNat hb0)))

end Sys2Proof.Machine
end

section
/-! PROOF. The host's register accesses (44_system R220 to R222; 10_state R21, R22): a number names the register of R21's row, and an
access to it is good by the row's access right and width. -/

namespace Sys2Proof.Machine

/-- The number that names a register is its number in R21's table. -/
theorem regNumber_of_regOf {i : Nat} {r : Reg} (h : regOf i = some r) : regNumber r = i := by
  have htable : regList.map regNumber = List.range 27 := rfl
  have hnum : (List.range 27)[i]? = some (regNumber r) := by
    rw [← htable, List.getElem?_map]
    exact congrArg (Option.map regNumber) h
  exact (List.getElem_of_getElem? hnum).2.symm.trans (List.getElem_range _)

/-- Numbers above 26 name no register (44_system R222). -/
theorem regOf_eq_none {i : Nat} (h : 26 < i) : regOf i = none := List.getElem?_eq_none h

/-- The registers the host may write and read, by number (10_state R21). -/
theorem regAccess_eq_readWrite_iff (r : Reg) :
    regAccess r = .readWrite ↔ (4 ≤ regNumber r ∧ regNumber r ≤ 7) ∨ (13 ≤ regNumber r ∧ regNumber r ≤ 21) := by
  cases r <;> decide

/-- The registers the host may only read, by number (10_state R21). -/
theorem regAccess_eq_readOnly_iff (r : Reg) :
    regAccess r = .readOnly ↔ regNumber r ∈ [1, 2, 3, 8, 9, 10, 11, 12, 22, 23, 24, 25, 26] := by
  cases r <;> decide

theorem mem_dataRegs_of_readWrite {r : Reg} (h : regAccess r = .readWrite) : r ∈ dataRegs := by
  revert h
  cases r <;> decide

/-- A good `wr` of a register other than `CMD` writes that register (44_system R221). -/
theorem act_wr_of_good {i v : Nat} {r : Reg} (s : State) (hr : regOf i = some r) (hw : regAccess r = .readWrite)
    (hv : v < 2 ^ regWidth Config.std r) : act (.wr i v) s = .next (s.mapBlock (writeReg r v)) := by
  have hcmd : r ≠ .cmd := by rintro rfl; cases hw
  apply act_of_done
  simp [respond, hostWrite, hr, hw, hcmd, Nat.not_le.mpr hv]

/-- A `wr` whose number names no register, a read-only one or one too narrow for the value is a bad access (44_system R222). -/
theorem act_wr_of_bad {i v : Nat} (s : State)
    (h : ∀ r, regOf i = some r → regAccess r = .readOnly ∨ 2 ^ regWidth Config.std r ≤ v) :
    act (.wr i v) s = .next (s.mapBlock (badRegister i)) := by
  apply act_of_done
  cases hr : regOf i with
  | none => simp only [respond, hostWrite, hr]
  | some r =>
    simp only [respond, hostWrite, hr]
    rcases h r hr with hro | hwide
    · rw [if_pos hro]
    · rw [if_pos hwide, ite_self]

/-- A `rd` hands out what the register reads, whatever its access right (44_system R220). -/
theorem act_rd {i : Nat} {r : Reg} (s : State) (hr : regOf i = some r) :
    act (.rd i) s = .next (observe (.hostReceived (readReg r s.toBlock)) s) := by
  apply act_of_handed (b := s.toBlock)
  simp only [respond, hostRead, hr]

theorem act_rd_regNumber (r : Reg) (s : State) :
    act (.rd (regNumber r)) s = .next (observe (.hostReceived (readReg r s.toBlock)) s) := act_rd s (regOf_regNumber r)

/-- A `rd` of a number that names no register hands out 0 and is a bad access (44_system R222). -/
theorem act_rd_of_bad {i : Nat} (s : State) (hr : regOf i = none) :
    act (.rd i) s = .next (observe (.hostReceived 0) (s.mapBlock (badRegister i))) := by
  apply act_of_handed
  simp only [respond, hostRead, hr]

/-- The number of a bad access is recorded modulo 256: a byte holds no more of it (44_system R222, R224). -/
theorem ofNat_byte_mod (n : Nat) : BitVec.ofNat 8 (n % 256) = BitVec.ofNat 8 n :=
  BitVec.eq_of_toNat_eq (by simp)

/-- Settles O10: the numbers are those of the registers the host may write, and `writeReg` has its rules for each register read. -/
theorem hostWriteChangesThatRegisterOnly : Obligations.HostWriteChangesThatRegisterOnly := by
  intro s i v r hr hi hv
  have hw : regAccess r = .readWrite := (regAccess_eq_readWrite_iff r).mpr ((regNumber_of_regOf hr).symm ▸ hi)
  exact ⟨_, act_wr_of_good s hr hw hv, readReg_setReg_same _ (mem_dataRegs_of_readWrite hw) hv, fun _ hne => readReg_writeReg_other v _ hne,
    by simp, rfl, rfl, by simp, by simp⟩

/-- Settles O11: each of the three kinds is a bad access. -/
theorem badRegisterAccessRaises : Obligations.BadRegisterAccessRaises := by
  refine ⟨fun s i v hbad => ?_, fun s i hi => ?_⟩
  · have hacc : ∀ r, regOf i = some r → regAccess r = .readOnly ∨ 2 ^ regWidth Config.std r ≤ v := by
      intro r hr
      rcases hbad with hi | hro | ⟨q, hq, hwide⟩
      · simp [regOf_eq_none hi] at hr
      · exact .inl ((regAccess_eq_readOnly_iff r).mpr ((regNumber_of_regOf hr).symm ▸ hro))
      · exact .inr (Option.some.inj (hq.symm.trans hr) ▸ hwide)
    rw [act_wr_of_bad s hacc, ofNat_byte_mod]
    rfl
  · rw [act_rd_of_bad s (regOf_eq_none hi), ofNat_byte_mod]
    rfl

/-- Settles O12: each register read under its number in R21's table. -/
theorem hostReadHandsOutTheRegister : Obligations.HostReadHandsOutTheRegister :=
  ⟨act_rd_regNumber .cmd, act_rd_regNumber .lastErr, act_rd_regNumber .errs, act_rd_regNumber .errInfo, act_rd_regNumber .fTid,
   act_rd_regNumber .fFlags, act_rd_regNumber .fAddr, act_rd_regNumber .fData, act_rd_regNumber .pTid, act_rd_regNumber .pFlags,
   act_rd_regNumber .pAddr, act_rd_regNumber .pData, act_rd_regNumber .pSuccess, act_rd_regNumber .rInt, act_rd_regNumber .rNum,
   act_rd_regNumber .rDen, act_rd_regNumber .msIdx, act_rd_regNumber .msDbl, act_rd_regNumber .msA, act_rd_regNumber .msB,
   act_rd_regNumber .msC, act_rd_regNumber .msR, act_rd_regNumber .msP1, act_rd_regNumber .msP2, act_rd_regNumber .msP3,
   act_rd_regNumber .msBase, act_rd_regNumber .msRreg, fun s _ _ hr => act_rd s hr⟩

end Sys2Proof.Machine
end

section
/-! PROOF. The accesses to buffer space: the host's `stb` and `ldb` (44_system R223 to R225), the transport's `take` and `deliver`
(R228), and the instructions, of which none reaches an address that does not exist (20_memory R61). -/

namespace Sys2Proof.Machine

/-- A `stb` of a byte inside buffer space stores that byte (44_system R225). -/
theorem act_stb_of_good {a v : Nat} (s : State) (ha : a < bufSize) (hv : v < 256) :
    act (.stb a v) s = .next (s.mapBlock (storeBytes a [BitVec.ofNat 8 v])) := by
  have hgood : ¬ (bufSize ≤ a ∨ 256 ≤ v) := not_or.mpr ⟨Nat.not_le.mpr ha, Nat.not_le.mpr hv⟩
  apply act_of_done
  simp only [respond, hostStore, if_neg hgood]

/-- A `stb` outside buffer space or of more than a byte is a bad access (44_system R224). -/
theorem act_stb_of_bad {a v : Nat} (s : State) (h : bufSize ≤ a ∨ 256 ≤ v) :
    act (.stb a v) s = .next (s.mapBlock (badAddress a)) := by
  apply act_of_done
  simp only [respond, hostStore, if_pos h]

/-- A `ldb` of a written byte hands it out (44_system R223). -/
theorem act_ldb_of_read {a : Nat} {b : Byte} {s : State} (ha : a < bufSize) (h : Memory.read s.mem a = some b) :
    act (.ldb a) s = .next (observe (.hostReceived (b.setWidth 64)) s) := by
  apply act_of_handed (b := s.toBlock)
  simp only [respond, hostLoad, if_neg (Nat.not_le.mpr ha), fetchByte_of_read h, map_ok, handOut]

/-- A `ldb` of a byte that nothing has written stops (10_state R37). -/
theorem act_ldb_of_unwritten {a : Nat} {s : State} (ha : a < bufSize) (h : Memory.read s.mem a = none) :
    act (.ldb a) s = .fault (.unwrittenByte a) := by
  apply act_of_stops
  simp only [respond, hostLoad, if_neg (Nat.not_le.mpr ha), fetchByte_of_unwritten h, map_error, handOut]

/-- A `ldb` outside buffer space hands out 0 and is a bad access (44_system R224). -/
theorem act_ldb_of_bad {a : Nat} (s : State) (h : bufSize ≤ a) :
    act (.ldb a) s = .next (observe (.hostReceived 0) (s.mapBlock (badAddress a))) := by
  apply act_of_handed
  simp only [respond, hostLoad, if_pos h]

/-- A read of several bytes stops at the first that nothing has written (10_state R37). -/
theorem fetchBytes_of_unwritten {m : Memory} {n k a : Nat} (hk : k < n)
    (hbefore : ∀ i, i < k → (Memory.read m (a + i)).isSome = true) (hnone : Memory.read m (a + k) = none) :
    fetchBytes m a n = .error (.unwritten (a + k)) := by
  induction k generalizing n a with
  | zero =>
    obtain ⟨n, rfl⟩ := Nat.exists_eq_add_one.mpr hk
    have hfirst : fetchByte m a = .error (.unwritten a) := fetchByte_of_unwritten hnone
    simp only [fetchBytes, hfirst, error_bind, Nat.add_zero]
  | succ k ih =>
    obtain ⟨n, rfl⟩ := Nat.exists_eq_add_one.mpr (Nat.zero_lt_of_lt hk)
    obtain ⟨b, hb⟩ := Option.isSome_iff_exists.mp (hbefore 0 (by omega))
    have hfirst : fetchByte m a = .ok b := fetchByte_of_read hb
    have hshift : ∀ i, a + 1 + i = a + (i + 1) := by omega
    have hrest : fetchBytes m (a + 1) n = .error (.unwritten (a + (k + 1))) := by
      rw [ih (by omega) (fun i hi => hshift i ▸ hbefore (i + 1) (by omega)) (hshift k ▸ hnone), hshift]
    simp only [fetchBytes, hfirst, hrest, ok_bind, error_bind]

/-- `take` hands out what it reads from `TXF` (44_system R228). -/
theorem act_take_of_fetch {s : State} {bs : List Byte} (h : fetchBytes s.mem txfBase 16 = .ok bs) :
    act .take s = .next (observe (.requestLeft (frameOfBytes bs)) s) := by
  have hfetch : fetchBytes s.mem txfBase Config.std.frameLen = .ok bs := h
  apply act_of_handed (b := s.toBlock)
  simp only [respond, transportTake, hfetch, map_ok, handOut]

/-- `take` stops where its read of `TXF` does (10_state R37). -/
theorem act_take_of_unwritten {s : State} {a : Nat} (h : fetchBytes s.mem txfBase 16 = .error (.unwritten a)) :
    act .take s = .fault (.unwrittenByte a) := by
  have hfetch : fetchBytes s.mem txfBase Config.std.frameLen = .error (.unwritten a) := h
  apply act_of_stops
  simp only [respond, transportTake, hfetch, map_error, handOut]

/-- Settles O7: the delivery's store, byte by byte and outside it. -/
theorem deliverWritesEveryFrame : Obligations.DeliverWritesEveryFrame := by
  intro s f
  refine ⟨_, act_deliver f s, fun i hi => ?_, fun a ha => ?_, ?_⟩
  · rw [mapBlock_toBlock, storeBytes_mem, Memory.read_writeBytes_inside _ _ _ (by simpa using hi), frameBytes_getElem? f hi]
  · rw [mapBlock_toBlock, storeBytes_mem, Memory.read_writeBytes_outside _ _ _ (by simpa using ha)]
  · rfl

/-- Settles O13: the good `stb` and the two ends of a good `ldb`. -/
theorem hostBufferAccess : Obligations.HostBufferAccess :=
  ⟨fun s a _ ha hv => ⟨_, act_stb_of_good s ha hv, Memory.read_write_same s.mem a _,
    fun _ hne => Memory.read_write_other s.mem _ hne, rfl⟩,
   fun _ _ _ ha h => act_ldb_of_read ha h, fun _ _ ha h => act_ldb_of_unwritten ha h⟩

/-- Settles O15: the read of the sixteen bytes gives the frame they are of, or stops at the lowest unwritten one. -/
theorem takeReadsTxf : Obligations.TakeReadsTxf := by
  refine ⟨fun s f h => ?_, fun s n hn hbefore hnone => ?_⟩
  · have hread : ∀ i, i < (frameBytes f).length → Memory.read s.mem (txfBase + i) = (frameBytes f)[i]? := by
      intro i hi
      rw [frameBytes_length] at hi
      rw [txfBase, Nat.zero_add, h i hi, frameBytes_getElem? f hi]
    have hfetch := fetchBytes_of_read hread
    rw [frameBytes_length] at hfetch
    rw [act_take_of_fetch hfetch, frameOfBytes_frameBytes]
    rfl
  · have hstop := fetchBytes_of_unwritten (m := s.mem) (a := txfBase) hn (by simpa using hbefore) (by simpa using hnone)
    rw [txfBase, Nat.zero_add] at hstop
    exact act_take_of_unwritten hstop

/-- A command of the form "compute, then write the results" stops only where its computation does. -/
theorem finish_map_fault {α : Type} {s : Block} {r : Except Abort α} {f : α → Block} {e : Fault}
    (h : finish s (r.map f) = .fault e) : ∃ a, r = .error (.unwritten a) ∧ e = .unwrittenByte a := by
  obtain ⟨a, ha, he⟩ := finish_fault h
  exact ⟨a, map_eq_error ha, he⟩

/-- A BUILD reads no buffer byte, so it never stops. -/
theorem buildFrame_not_fault {k : FrameClass} {b : Block} {e : Fault} : buildFrame Config.std k b ≠ .fault e := by
  intro h
  obtain ⟨a, ha, _⟩ := finish_map_fault h
  exact absurd (buildBytes_raise ha) (by simp)

/-- A PARSE stops only at a byte of `RXF` (20_memory R68). -/
theorem parseFrame_fault_lt {k : FrameClass} {b : Block} {a : Nat} (h : parseFrame Config.std k b = .fault (.unwrittenByte a)) :
    a < bufSize := by
  obtain ⟨x, hx, he⟩ := finish_map_fault h
  cases he
  have hfits : rxfBase + 4 + Config.std.na k + Config.std.nd k ≤ bufSize := by cases k <;> decide
  rcases parseBytes_error hx with ⟨_, hraise⟩ | ⟨_, _, hraise⟩ | ⟨_, hread, _, hlt⟩
  · cases hraise
  · cases hraise
  · cases hread
    exact hlt.trans_le hfits

/-- UNPACK stops only at a byte of `MSREG` (20_memory R68). -/
theorem unpackCommand_fault_lt {b : Block} {a : Nat} (h : unpackCommand Config.std b = .fault (.unwrittenByte a)) : a < bufSize := by
  rw [unpackCommand_eq] at h
  obtain ⟨x, hx, he⟩ := finish_map_fault h
  cases he
  rcases bind_eq_error hx with hfetch | ⟨f, _, hrest⟩
  · obtain ⟨_, hread, _, hlt⟩ := fetchImage_error hfetch
    cases hread
    exact hlt
  · rcases bind_eq_error hrest with hraise | ⟨_, _, hok⟩
    · cases unpackFields_error hraise
    · cases hok

/-- An instruction stops only at a byte of buffer space: PARSE and UNPACK read nothing else, and the others read none of it. -/
theorem execIn_fault_lt {i : Instr} {b : Block} {a : Nat} (h : execIn Config.std i b = .fault (.unwrittenByte a)) : a < bufSize := by
  cases i with
  | clrerr => cases h
  | build8x8 => exact absurd h buildFrame_not_fault
  | build8x16 => exact absurd h buildFrame_not_fault
  | build8x32 => exact absurd h buildFrame_not_fault
  | build8x64 => exact absurd h buildFrame_not_fault
  | build16x64 => exact absurd h buildFrame_not_fault
  | build32x32 => exact absurd h buildFrame_not_fault
  | parse8x8 => exact parseFrame_fault_lt h
  | parse8x16 => exact parseFrame_fault_lt h
  | parse8x32 => exact parseFrame_fault_lt h
  | parse8x64 => exact parseFrame_fault_lt h
  | parse16x64 => exact parseFrame_fault_lt h
  | parse32x32 => exact parseFrame_fault_lt h
  | reduce =>
    obtain ⟨_, hx, _⟩ := finish_map_fault h
    exact absurd (reduceRate_error hx) (by simp)
  | double =>
    obtain ⟨_, hx, _⟩ := finish_map_fault h
    exact absurd (doubleRate_error hx) (by simp)
  | calcms =>
    obtain ⟨_, hx, _⟩ := finish_map_fault h
    exact absurd (calcMultisynth_error hx) (by simp)
  | pack =>
    obtain ⟨_, hx, _⟩ := finish_map_fault h
    exact absurd (packFields_error hx) (by simp)
  | unpack => exact unpackCommand_fault_lt h
  | msaddr =>
    obtain ⟨_, hx, _⟩ := finish_map_fault h
    rw [baseAddress_eq] at hx
    split_ifs at hx
    cases hx
  | renc =>
    obtain ⟨_, hx, _⟩ := finish_map_fault h
    rw [dividerByte_eq] at hx
    split_ifs at hx
    cases hx
  | frame8x8 => cases h
  | frame8x16 => cases h
  | frame8x32 => cases h
  | frame8x64 => cases h
  | frame16x64 => cases h
  | frame32x32 => cases h

/-- An instruction leaves every address outside buffer space as it is. -/
theorem exec_read_outside {i : Instr} {s t : State} {a : Nat} (h : exec i s = .next t) (ha : bufSize ≤ a) :
    Memory.read t.mem a = Memory.read s.mem a := by
  rcases exec_mem h with hm | ⟨x, bs, hx, hm⟩
  · rw [hm]
  · rw [hm, Memory.read_writeBytes_outside _ _ _ (.inr (hx.trans ha))]

/-- Settles O14: the bad accesses of the host, and the store and the reads of an instruction, which stay inside buffer space. -/
theorem badBufferAccessRaises : Obligations.BadBufferAccessRaises := by
  refine ⟨fun s a v h => ?_, fun s a h => ?_, fun i s t a h ha => exec_read_outside h ha, fun i s a h => ?_⟩
  · rw [act_stb_of_bad s h, ofNat_byte_mod]
    rfl
  · rw [act_ldb_of_bad s h, ofNat_byte_mod]
    rfl
  · rw [exec_eq_execIn] at h
    exact Nat.le_of_lt_succ (execIn_fault_lt (onBlock_fault h))

/-- Settles O23: CLRERR is the clearing of the error registers on the block (44_system R226). -/
theorem clrerrClearsTheErrorRegisters : Obligations.ClrerrClearsTheErrorRegisters := fun _ => rfl

end Sys2Proof.Machine
end

section
/-! PROOF. Taking an exception (60_exceptions R240 to R252): what a recording writes, and what a command that ends with a cause has
recorded, which is read off the ways a command ends (`exec_command_next`). -/

namespace Sys2Proof.Machine

/-- The sticky bit of a cause is the bit of its code and no other (10_state R24). -/
theorem getLsbD_stickyBit (c : Cause) {j : Nat} (hj : j < 8) : (stickyBit c).getLsbD j = decide (j = (causeCode c).toNat) := by
  revert j
  cases c <;> decide

theorem errInfoOf_toNat (sub val : Byte) : (errInfoOf sub val).toNat = (sub.toNat <<< 8) ||| val.toNat :=
  BitVec.toNat_append sub val

/-- Settles O17: the sticky bit joins the others by an or, and every register that is not named keeps its value. -/
theorem recordingWritesTheThreeErrorRegisters : Obligations.RecordingWritesTheThreeErrorRegisters := by
  refine fun c sub val s => ⟨rfl, fun j hj => ?_, errInfoOf_toNat sub val, rfl⟩
  rw [recordCause_errs, BitVec.getLsbD_or, getLsbD_stickyBit c hj, Bool.or_comm]

/-- A command that ends with a cause recorded one of its row of the table, and in the block it started from unless the cause is
OperationFailed (R242, R251). -/
theorem exec_command_cause {i : Instr} {s t : State} (hi : i.isCommand = true) (h : exec i s = .next t) (hl : t.lastErr ≠ 0) :
    ∃ u c sub val, t = { s with toBlock := recordCause c sub val u } ∧ (c, sub) ∈ allowedCauses i ∧
      (c = .operationFailed ∨ u = s.toBlock) := by
  obtain ⟨b, rfl, hends⟩ := exec_command_next hi h
  cases hends with
  | cleared _ => exact absurd rfl hl
  | normally u _ _ => exact absurd rfl hl
  | recorded u c sub val _ hc hu => exact ⟨u, c, sub, val, rfl, hc, hu⟩

/-- Settles O18: a cause other than OperationFailed was recorded in the block the command started from. -/
theorem raiseIsPreciseAndClean : Obligations.RaiseIsPreciseAndClean := by
  intro i s t hi h hl hfailed
  obtain ⟨u, c, sub, val, rfl, _, rfl | rfl⟩ := exec_command_cause hi h hl
  · exact absurd rfl hfailed
  · exact ⟨c, sub, val, rfl, rfl⟩

/-- Settles O19: the recorded cause is of the command's row, and its sub-code is the high byte of `ERRINFO`. -/
theorem commandCausesAreTheTables : Obligations.CommandCausesAreTheTables := by
  intro i s t hi h hl
  obtain ⟨u, c, sub, val, rfl, hc, _⟩ := exec_command_cause hi h hl
  exact ⟨c, sub, hc, rfl, errInfoOf_sub sub val⟩

end Sys2Proof.Machine
end

section
/-! PROOF. The block does not lock (60_exceptions R252, R255). A command computes from what is not an error register, so from two blocks
that differ in those alone it stops at the same byte or ends with the same cause, in blocks that differ in `ERRS` and `ERRINFO` alone. -/

namespace Sys2Proof.Machine

/-- The block with other values in the error registers. -/
def setErrors (l : BitVec 3) (e : BitVec 8) (x : BitVec 16) (b : Block) : Block := { b with lastErr := l, errs := e, errInfo := x }

/-- Two blocks that differ in `ERRS` and `ERRINFO` alone. -/
def EqButSticky (t t' : Block) : Prop := t' = { t with errs := t'.errs, errInfo := t'.errInfo }

/-- Two runs of a command that end alike: next, but for `ERRS` and `ERRINFO`, or at the same stop. -/
inductive EndAlike : Host.Outcome Block Fault Refusal → Host.Outcome Block Fault Refusal → Prop
  | next {t t' : Block} : EqButSticky t t' → EndAlike (.next t) (.next t')
  | fault (r : Fault) : EndAlike (.fault r) (.fault r)

theorem EndAlike.exists_next {o o' : Host.Outcome Block Fault Refusal} (h : EndAlike o o') {t : Block} (ho : o = .next t) :
    ∃ t', o' = .next t' ∧ EqButSticky t t' := by
  cases h with
  | next ht =>
    cases ho
    exact ⟨_, rfl, ht⟩
  | fault r => cases ho

theorem EndAlike.eq_fault {o o' : Host.Outcome Block Fault Refusal} (h : EndAlike o o') {r : Fault} (ho : o = .fault r) :
    o' = .fault r := by
  cases h with
  | next _ => cases ho
  | fault r => exact ho

section Commands
variable (l : BitVec 3) (e : BitVec 8) (x : BitVec 16) (b : Block)

theorem eqButSticky_endNormally : EqButSticky (endNormally b) (endNormally (setErrors l e x b)) := rfl

theorem eqButSticky_recordCause (c : Cause) (sub val : Byte) :
    EqButSticky (recordCause c sub val b) (recordCause c sub val (setErrors l e x b)) := rfl

/-- The success bit decides how PARSE ends, whatever the error registers hold (41_frame_parse R152). -/
theorem eqButSticky_endParse (flags : Byte) : EqButSticky (endParse flags b) (endParse flags (setErrors l e x b)) := by
  unfold endParse
  split_ifs
  · exact eqButSticky_recordCause l e x b ..
  · exact eqButSticky_endNormally l e x b

/-- A command that computes the same thing in both blocks, and writes it alike, ends alike. -/
theorem endAlike_finish {α : Type} (r : Except Abort α) {f f' : α → Block} (hf : ∀ a, EqButSticky (f a) (f' a)) :
    EndAlike (finish b (r.map f)) (finish (setErrors l e x b) (r.map f')) := by
  match r with
  | .ok a => exact .next (hf a)
  | .error (.raise c sub val) => exact .next (eqButSticky_recordCause l e x b c sub val)
  | .error (.unwritten a) => exact .fault _

theorem endAlike_buildFrame (k : FrameClass) :
    EndAlike (buildFrame Config.std k b) (buildFrame Config.std k (setErrors l e x b)) :=
  endAlike_finish l e x b _ fun bytes => eqButSticky_endNormally l e x (storeBytes txfBase bytes b)

theorem endAlike_parseFrame (k : FrameClass) :
    EndAlike (parseFrame Config.std k b) (parseFrame Config.std k (setErrors l e x b)) :=
  endAlike_finish l e x b _ fun p => eqButSticky_endParse l e x (withParsed p b) p.flags

/-- Every command ends alike whatever the error registers hold. -/
theorem endAlike_execIn {i : Instr} (hi : i.isCommand = true) :
    EndAlike (execIn Config.std i b) (execIn Config.std i (setErrors l e x b)) := by
  cases i with
  | clrerr => exact .next rfl
  | build8x8 | build8x16 | build8x32 | build8x64 | build16x64 | build32x32 => exact endAlike_buildFrame l e x b _
  | parse8x8 | parse8x16 | parse8x32 | parse8x64 | parse16x64 | parse32x32 => exact endAlike_parseFrame l e x b _
  | reduce => exact endAlike_finish l e x b _ fun y => eqButSticky_endNormally l e x (withRate y b)
  | double => exact endAlike_finish l e x b _ fun y => eqButSticky_endNormally l e x (withRate y b)
  | calcms => exact endAlike_finish l e x b _ fun m => eqButSticky_endNormally l e x (withMultisynth m b)
  | pack => exact endAlike_finish l e x b _ fun f => eqButSticky_endNormally l e x (storeFields f b)
  | unpack =>
    simp only [execIn, unpackCommand_eq]
    exact endAlike_finish l e x b _ fun r => eqButSticky_endNormally l e x (withUnpacked r b)
  | msaddr => exact endAlike_finish l e x b _ fun base => eqButSticky_endNormally l e x (withBase base b)
  | renc => exact endAlike_finish l e x b _ fun byte => eqButSticky_endNormally l e x (withRreg byte b)
  | frame8x8 | frame8x16 | frame8x32 | frame8x64 | frame16x64 | frame32x32 => cases hi

end Commands

/-- Settles O25: a command ends alike from both blocks, and a frame row is delivered into both, whatever frame it is. -/
theorem errorRegistersNeverChangeWhatACommandDoes : Obligations.ErrorRegistersNeverChangeWhatACommandDoes := by
  refine ⟨fun i s t l e x h => ?_, fun i s r l e x h => ?_⟩
  · cases hi : i.isCommand with
    | false =>
      rw [exec_row s hi] at h
      cases h
      refine ⟨_, exec_row _ hi, ?_, fun hc => absurd hc (by decide)⟩
      generalize frameOfBytes (encode i) = f
      rfl
    | true =>
      rw [exec_eq_execIn] at h
      obtain ⟨b, hb, rfl⟩ := onBlock_next h
      obtain ⟨b', hb', halike⟩ := (endAlike_execIn l e x s.toBlock hi).exists_next hb
      refine ⟨{ s with toBlock := b' }, (exec_eq_execIn i _).trans (onBlock_of_next hb'), ?_, fun _ => ?_⟩
      · rw [halike]
      · rw [halike]
  · cases hi : i.isCommand with
    | false =>
      rw [exec_row s hi] at h
      cases h
    | true =>
      rw [exec_eq_execIn] at h ⊢
      exact onBlock_of_fault ((endAlike_execIn l e x s.toBlock hi).eq_fault (onBlock_fault h))

end Sys2Proof.Machine
end

section
/-! PROOF. The reset action, and the draws before every action (70_reset R280; 10_state R36, R37): the registers on the list `unset` take
the next free values in the list's order, and a reset puts every data register on it. -/

namespace Sys2Proof.Machine

/-- In a list of draws that names each register once, the register at place i reads as the i-th free value from the counter on. -/
theorem readReg_foldl_redraw {rs : List Reg} {i : Nat} {r : Reg} (s : Block) (hnodup : rs.Nodup) (hdata : ∀ q, q ∈ rs → q ∈ dataRegs)
    (hr : rs[i]? = some r) :
    readReg r (rs.foldl (redraw Config.std) s) =
      BitVec.ofNat 64 ((Config.unspecified (s.draws + i)).toNat % 2 ^ regWidth Config.std r) := by
  induction rs generalizing s i with
  | nil => cases hr
  | cons q rs ih =>
    obtain ⟨hq, hrest⟩ := List.nodup_cons.mp hnodup
    obtain ⟨hqdata, hrestdata⟩ := List.forall_mem_cons.mp hdata
    rw [List.foldl_cons]
    cases i with
    | zero =>
      cases hr
      obtain ⟨_, _, _, _, _, hkept⟩ := foldl_redraw Config.std rs (redraw Config.std s r)
      exact (hkept r hq).trans (readReg_redraw_same s hqdata)
    | succ i =>
      have hdrawn := ih (redraw Config.std s q) hrest hrestdata hr
      have hcount : (redraw Config.std s q).draws + i = s.draws + (i + 1) := Nat.succ_add_eq_add_succ s.draws i
      rwa [hcount] at hdrawn

theorem dataRegs_nodup : dataRegs.Nodup := by decide

/-- A reset draws every data register, from the counter it finds on (R280). -/
theorem readReg_resetBlock {i : Nat} {r : Reg} (b : Block) (hr : dataRegs[i]? = some r) :
    readReg r (resetBlock Config.std b) =
      BitVec.ofNat 64 ((Config.unspecified (b.draws + i)).toNat % 2 ^ regWidth Config.std r) :=
  readReg_foldl_redraw _ dataRegs_nodup (fun _ h => h) hr

@[simp] theorem resetBlock_draws (cfg : Config) (b : Block) : (resetBlock cfg b).draws = b.draws + 23 := refresh_draws _ _

theorem act_reset (s : State) : act .reset s = .next (s.mapBlock (resetBlock Config.std)) := act_of_done rfl

/-- Settles O16: a reset refreshes the block with every data register unset, and `refresh` has its rule for each register read. -/
theorem resetActionClearsErrorsAndBuffers : Obligations.ResetActionClearsErrorsAndBuffers := by
  refine ⟨fun s => ⟨_, act_reset s, ?_⟩, fun s i r hnodup hdata hr => readReg_foldl_redraw s.toBlock hnodup hdata hr,
    fun s => refresh_draws Config.std s.toBlock, fun s r hr => readReg_refresh Config.std hr, fun s => ?_⟩
  · have hunset : (resetBlock Config.std s.toBlock).unset = dataRegs := resetBlock_unset _ _
    refine ⟨by simp, by simp, by simp, fun a => ?_, hunset, rfl, rfl, by simp, fun i r hr => ?_⟩
    · rw [mapBlock_toBlock, resetBlock_mem]
      rfl
    · rw [mapBlock_toBlock, hunset] at hr
      exact readReg_resetBlock s.toBlock hr
  · exact ⟨refreshed_mem s, refreshed_lastErr s, refresh_errs Config.std s.toBlock, refresh_errInfo Config.std s.toBlock,
      refresh_unset Config.std s.toBlock, rfl, rfl⟩

end Sys2Proof.Machine
end
